-- ==== Sys2Proof/Word.lean ====
section
/-! DEFINITION. The word types of the machine (spec 00 R10, R17, R18; 30 R74): all values are unsigned. -/

namespace Sys2Proof

/-- A byte: a memory cell, a general-purpose register, a timer, an 8-bit immediate (`NN`). -/
abbrev Byte := BitVec 8

/-- A 16-bit value: an instruction word, `PC`, `I`, a slot of the call stack. -/
abbrev Word := BitVec 16

/-- A 4-bit field: a register index (`X`, `Y`), a sprite height (`N`), a key code. -/
abbrev Nibble := BitVec 4

/-- A 12-bit address operand (`NNN`). -/
abbrev Addr12 := BitVec 12

/-- The bitmap of 2048 one-bit pixels, row-major: 32 rows of 64, bit `c` of row `r` is `FB[r*64 + c]` (10 R37). -/
abbrev Bitmap := Vector (BitVec 64) 32

end Sys2Proof
end

