-- ==== Sys2Proof/Machine/Flags.lean ====
section
/-! DEFINITION. The flag computations of the five flag-writing ALU instructions (40 R110), each on the operands as
they were before the instruction, and the results beside them: exact on integers, then narrowed (40 R106). -/

namespace Sys2Proof.Machine

/-- Carry of `ADD Vx, Vy`: the unmasked sum exceeds 255 (40 R100). -/
def carryFlag (a b : Byte) : Bool := decide (255 < a.toNat + b.toNat)

/-- Flag of `SUB` and `SUBN`: the minuend is strictly greater than the subtrahend (40 R101, R103; 90 C4). -/
def greaterFlag (minuend subtrahend : Byte) : Bool := decide (subtrahend.toNat < minuend.toNat)

/-- Flag of `SHR Vx`: bit 0 of the value before the shift (40 R102). -/
def lowBitFlag (a : Byte) : Bool := a.getLsbD 0

/-- Flag of `SHL Vx`: bit 7 of the value before the shift (40 R104). -/
def highBitFlag (a : Byte) : Bool := a.getLsbD 7

/-- `(a + b) mod 256` (40 R95, R100). -/
def sumByte (a b : Byte) : Byte := BitVec.ofNat 8 (a.toNat + b.toNat)

/-- `(minuend - subtrahend) mod 256` (40 R101, R103). -/
def differenceByte (minuend subtrahend : Byte) : Byte :=
  BitVec.ofInt 8 ((minuend.toNat : Int) - (subtrahend.toNat : Int))

/-- `a >> 1` (40 R102). -/
def halfByte (a : Byte) : Byte := BitVec.ofNat 8 (a.toNat / 2)

/-- `(a << 1) mod 256` (40 R104). -/
def doubleByte (a : Byte) : Byte := BitVec.ofNat 8 (a.toNat * 2)

end Sys2Proof.Machine
end

