-- ==== Sys2Proof/Syntax.lean ====
section
/-! DEFINITION. The instructions: one constructor per row of spec/opcode_table.json, in the table's order (30 R85).
Operands are the fields of 30 R74 at their own widths, so an operand out of its range cannot be written. Don't-care
bits (30 R83, R88) are kept as operands that no meaning reads, so that an instruction names its word exactly. -/

namespace Sys2Proof

/-- The 34 instructions of CORE (30 R85, R86). -/
inductive Instr where
  /-- `CLS` (00E0, 43 R134). -/
  | cls
  /-- `RET` (00EE, 41 R115). -/
  | ret
  /-- `JP addr` (1NNN, 41 R112). -/
  | jp (nnn : Addr12)
  /-- `CALL addr` (2NNN, 41 R113). -/
  | call (nnn : Addr12)
  /-- `SE Vx, byte` (3XNN, 41 R116). -/
  | seImm (x : Nibble) (nn : Byte)
  /-- `SNE Vx, byte` (4XNN, 41 R117). -/
  | sneImm (x : Nibble) (nn : Byte)
  /-- `SE Vx, Vy` (5XY-, 41 R118); `z` is the ignored low nibble (30 R83). -/
  | seReg (x y z : Nibble)
  /-- `LD Vx, byte` (6XNN, 40 R94). -/
  | ldImm (x : Nibble) (nn : Byte)
  /-- `ADD Vx, byte` (7XNN, 40 R95). -/
  | addImm (x : Nibble) (nn : Byte)
  /-- `LD Vx, Vy` (8XY0, 40 R96). -/
  | ldReg (x y : Nibble)
  /-- `OR Vx, Vy` (8XY1, 40 R97). -/
  | orReg (x y : Nibble)
  /-- `AND Vx, Vy` (8XY2, 40 R98). -/
  | andReg (x y : Nibble)
  /-- `XOR Vx, Vy` (8XY3, 40 R99). -/
  | xorReg (x y : Nibble)
  /-- `ADD Vx, Vy` (8XY4, 40 R100). -/
  | addReg (x y : Nibble)
  /-- `SUB Vx, Vy` (8XY5, 40 R101). -/
  | subReg (x y : Nibble)
  /-- `SHR Vx` (8XY6, 40 R102); `y` is ignored. -/
  | shr (x y : Nibble)
  /-- `SUBN Vx, Vy` (8XY7, 40 R103). -/
  | subnReg (x y : Nibble)
  /-- `SHL Vx` (8XYE, 40 R104); `y` is ignored. -/
  | shl (x y : Nibble)
  /-- `SNE Vx, Vy` (9XY-, 41 R119); `z` is the ignored low nibble (30 R83). -/
  | sneReg (x y z : Nibble)
  /-- `LD I, addr` (ANNN, 42 R126). -/
  | ldI (nnn : Addr12)
  /-- `JP V0, addr` (BNNN, 41 R114). -/
  | jpV0 (nnn : Addr12)
  /-- `RND Vx, byte` (CXNN, 40 R105). -/
  | rnd (x : Nibble) (nn : Byte)
  /-- `DRW Vx, Vy, nibble` (DXYN, 43 R135). -/
  | drw (x y n : Nibble)
  /-- `SKP Vx` (EX9E, 41 R120). -/
  | skp (x : Nibble)
  /-- `SKNP Vx` (EXA1, 41 R121). -/
  | sknp (x : Nibble)
  /-- `LD Vx, DT` (FX07, 44 R143). -/
  | ldVxDt (x : Nibble)
  /-- `LD Vx, K` (FX0A, 44 R147). -/
  | ldVxK (x : Nibble)
  /-- `LD DT, Vx` (FX15, 44 R144). -/
  | ldDtVx (x : Nibble)
  /-- `LD ST, Vx` (FX18, 44 R145). -/
  | ldStVx (x : Nibble)
  /-- `ADD I, Vx` (FX1E, 42 R127). -/
  | addI (x : Nibble)
  /-- `LD F, Vx` (FX29, 42 R128). -/
  | ldF (x : Nibble)
  /-- `LD B, Vx` (FX33, 42 R129). -/
  | ldB (x : Nibble)
  /-- `LD [I], Vx` (FX55, 42 R130). -/
  | stRegs (x : Nibble)
  /-- `LD Vx, [I]` (FX65, 42 R131). -/
  | ldRegs (x : Nibble)
  deriving DecidableEq, Repr

end Sys2Proof
end

