-- ==== Sys2Proof/Decode.lean ====
section
/-! DEFINITION. The decoder: the fields of 30 R74, the two-level dispatch of 30 R78 to R84, the decoder over bytes
(big-endian, 20 R56), and after it the encoder, written from the formats of 30 R75. -/

namespace Sys2Proof

/-- Opcode family `op = w[15:12]` (30 R74). -/
def opField (w : Word) : Nibble := w.extractLsb' 12 4

/-- Register field `X = w[11:8]` (30 R74). -/
def xField (w : Word) : Nibble := w.extractLsb' 8 4

/-- Register field `Y = w[7:4]` (30 R74). -/
def yField (w : Word) : Nibble := w.extractLsb' 4 4

/-- 4-bit operand `N = w[3:0]` (30 R74). -/
def nField (w : Word) : Nibble := w.extractLsb' 0 4

/-- 8-bit immediate `NN = w[7:0]` (30 R74). -/
def nnField (w : Word) : Byte := w.extractLsb' 0 8

/-- 12-bit address `NNN = w[11:0]` (30 R74). -/
def nnnField (w : Word) : Addr12 := w.extractLsb' 0 12

/-- Why no instruction is read: fewer than two bytes are given, or the word is in no row of the opcode map
(30 R78: `UnknownInstruction`). -/
inductive DecodeError where
  | truncated
  | unknownInstruction (word : Word)
  deriving DecidableEq, Repr

/-- Family 0 dispatches on all of `NNN` (30 R79). -/
def decodeFamily0 (w : Word) : Except DecodeError Instr :=
  if nnnField w = 0x0E0 then .ok .cls
  else if nnnField w = 0x0EE then .ok .ret
  else .error (.unknownInstruction w)

/-- Family 8 dispatches on `N` (30 R80). -/
def decodeFamily8 (w : Word) : Except DecodeError Instr :=
  if nField w = 0x0 then .ok (.ldReg (xField w) (yField w))
  else if nField w = 0x1 then .ok (.orReg (xField w) (yField w))
  else if nField w = 0x2 then .ok (.andReg (xField w) (yField w))
  else if nField w = 0x3 then .ok (.xorReg (xField w) (yField w))
  else if nField w = 0x4 then .ok (.addReg (xField w) (yField w))
  else if nField w = 0x5 then .ok (.subReg (xField w) (yField w))
  else if nField w = 0x6 then .ok (.shr (xField w) (yField w))
  else if nField w = 0x7 then .ok (.subnReg (xField w) (yField w))
  else if nField w = 0xE then .ok (.shl (xField w) (yField w))
  else .error (.unknownInstruction w)

/-- Family E dispatches on `NN` (30 R81). -/
def decodeFamilyE (w : Word) : Except DecodeError Instr :=
  if nnField w = 0x9E then .ok (.skp (xField w))
  else if nnField w = 0xA1 then .ok (.sknp (xField w))
  else .error (.unknownInstruction w)

/-- Family F dispatches on `NN` (30 R82). -/
def decodeFamilyF (w : Word) : Except DecodeError Instr :=
  if nnField w = 0x07 then .ok (.ldVxDt (xField w))
  else if nnField w = 0x0A then .ok (.ldVxK (xField w))
  else if nnField w = 0x15 then .ok (.ldDtVx (xField w))
  else if nnField w = 0x18 then .ok (.ldStVx (xField w))
  else if nnField w = 0x1E then .ok (.addI (xField w))
  else if nnField w = 0x29 then .ok (.ldF (xField w))
  else if nnField w = 0x33 then .ok (.ldB (xField w))
  else if nnField w = 0x55 then .ok (.stRegs (xField w))
  else if nnField w = 0x65 then .ok (.ldRegs (xField w))
  else .error (.unknownInstruction w)

/-- The two-level dispatch (30 R78): the top nibble selects the family, and families 0, 8, E and F look at a
sub-opcode. Total over all 65536 words (30 R77). The last arm is family F, the one value left. -/
def decodeWord (w : Word) : Except DecodeError Instr :=
  match (opField w).toNat with
  | 0x0 => decodeFamily0 w
  | 0x1 => .ok (.jp (nnnField w))
  | 0x2 => .ok (.call (nnnField w))
  | 0x3 => .ok (.seImm (xField w) (nnField w))
  | 0x4 => .ok (.sneImm (xField w) (nnField w))
  | 0x5 => .ok (.seReg (xField w) (yField w) (nField w))
  | 0x6 => .ok (.ldImm (xField w) (nnField w))
  | 0x7 => .ok (.addImm (xField w) (nnField w))
  | 0x8 => decodeFamily8 w
  | 0x9 => .ok (.sneReg (xField w) (yField w) (nField w))
  | 0xA => .ok (.ldI (nnnField w))
  | 0xB => .ok (.jpV0 (nnnField w))
  | 0xC => .ok (.rnd (xField w) (nnField w))
  | 0xD => .ok (.drw (xField w) (yField w) (nField w))
  | 0xE => decodeFamilyE w
  | _ => decodeFamilyF w

/-- The 16-bit word of two bytes, the byte at the lower address first: big-endian (20 R56). -/
def wordOfBytes (hi lo : Byte) : Word := hi ++ lo

/-- The decoder over bytes: the instruction and the bytes after it. Every instruction is two bytes long (30 R73). -/
def decodeBytes : List Byte → Except DecodeError (Instr × List Byte)
  | hi :: lo :: rest => (decodeWord (wordOfBytes hi lo)).map (·, rest)
  | [_] => .error .truncated
  | [] => .error .truncated

/-- The high byte of a word, which memory holds at the lower address (20 R56). -/
def highByte (w : Word) : Byte := w.extractLsb' 8 8

/-- The low byte of a word. -/
def lowByte (w : Word) : Byte := w.extractLsb' 0 8

/-- The word of a table row's bits: the low `nbits` bits of `w`, every bit above them 0. -/
def tableWord (nbits w : Nat) : Word := BitVec.ofNat 16 (w % 2 ^ nbits)

/-- The instruction the decoder reads from an instruction whose bits are `w`, numbered as the opcode table numbers
them: its word is laid out as memory holds it and given to the decoder. -/
def decodeTableWord (nbits w : Nat) : Option Instr :=
  match decodeBytes [highByte (tableWord nbits w), lowByte (tableWord nbits w)] with
  | .ok (i, _) => some i
  | .error _ => none

/-- Format A and format E: family and 12 bits (30 R75). -/
def formatA (op : Nibble) (nnn : Addr12) : Word := op ++ nnn

/-- Formats XI and XS: family, register, 8 bits (30 R75). -/
def formatXI (op x : Nibble) (nn : Byte) : Word := op ++ (x ++ nn)

/-- Formats XYS, XY and XYN: family, two registers, 4 bits (30 R75). -/
def formatXYN (op x y n : Nibble) : Word := op ++ (x ++ (y ++ n))

/-- The word of an instruction, from the opcode map (30 R85). -/
def encode : Instr → Word
  | .cls => formatA 0x0 0x0E0
  | .ret => formatA 0x0 0x0EE
  | .jp nnn => formatA 0x1 nnn
  | .call nnn => formatA 0x2 nnn
  | .seImm x nn => formatXI 0x3 x nn
  | .sneImm x nn => formatXI 0x4 x nn
  | .seReg x y z => formatXYN 0x5 x y z
  | .ldImm x nn => formatXI 0x6 x nn
  | .addImm x nn => formatXI 0x7 x nn
  | .ldReg x y => formatXYN 0x8 x y 0x0
  | .orReg x y => formatXYN 0x8 x y 0x1
  | .andReg x y => formatXYN 0x8 x y 0x2
  | .xorReg x y => formatXYN 0x8 x y 0x3
  | .addReg x y => formatXYN 0x8 x y 0x4
  | .subReg x y => formatXYN 0x8 x y 0x5
  | .shr x y => formatXYN 0x8 x y 0x6
  | .subnReg x y => formatXYN 0x8 x y 0x7
  | .shl x y => formatXYN 0x8 x y 0xE
  | .sneReg x y z => formatXYN 0x9 x y z
  | .ldI nnn => formatA 0xA nnn
  | .jpV0 nnn => formatA 0xB nnn
  | .rnd x nn => formatXI 0xC x nn
  | .drw x y n => formatXYN 0xD x y n
  | .skp x => formatXI 0xE x 0x9E
  | .sknp x => formatXI 0xE x 0xA1
  | .ldVxDt x => formatXI 0xF x 0x07
  | .ldVxK x => formatXI 0xF x 0x0A
  | .ldDtVx x => formatXI 0xF x 0x15
  | .ldStVx x => formatXI 0xF x 0x18
  | .addI x => formatXI 0xF x 0x1E
  | .ldF x => formatXI 0xF x 0x29
  | .ldB x => formatXI 0xF x 0x33
  | .stRegs x => formatXI 0xF x 0x55
  | .ldRegs x => formatXI 0xF x 0x65

end Sys2Proof
end

