-- ==== Sys2Proof/Config.lean ====
section
/-! DEFINITION. What a build of CORE fixes (spec 00 section 4): the constants the spec gives and the values it
leaves open, which are opaque: no proof can see what they are. The font table is in Machine/Font.lean. -/

namespace Sys2Proof

/-- `DRAW_ROW_POLICY` (00 R13, 43 R137): what a draw does with a sprite row below row 31. -/
inductive RowPolicy where
  /-- The row is drawn at `r mod 32`. -/
  | wrap
  /-- The row is not drawn. -/
  | clip
  /-- The draw raises `DrawOutOfRange` before changing anything. -/
  | fault
  deriving DecidableEq, Repr, Inhabited

/-- The highest address of memory, `MEM_SIZE - 1` (00 R8). -/
def Config.lastAddress : Nat := 4095

/-- `LOAD_OFFSET` (00 R9): where an image is placed and where `PC` starts. -/
def Config.loadOffset : Nat := 512

/-- `PROGRAM_CAPACITY = MEM_SIZE - LOAD_OFFSET` (00 R9). -/
def Config.programCapacity : Nat := 3584

/-- `RESET_DIRTY` (00 R16, D18). UNVERIFIED, unsafe: log entry 4. -/
def Config.resetDirty : Bool := false

/-- OPEN (00 R12): how many slots the call stack has beyond the one every build has. No body: nothing can be proved
of its value. DESIGN CHOICE, safe: log entry 2. -/
opaque Config.stackExtra : Nat

/-- `STACK_CAPACITY` of the machine at reset (00 R12): any integer from 1 up. -/
def Config.stackCapacity : Nat := Config.stackExtra + 1

/-- OPEN (00 R13): the row policy of the machine at reset. DESIGN CHOICE, safe: log entry 2. -/
opaque Config.drawRowPolicy : RowPolicy

/-- FREE VALUE (40 R109): the byte that the `k`-th random draw delivers. Nothing constrains it. DESIGN CHOICE,
safe: log entry 1. -/
opaque Config.drawByte : Nat → Byte

end Sys2Proof
end

