-- ==== Sys2Proof/Machine/Font.lean ====
section
/-! DEFINITION. The reset contents of memory: the font table (20 R63) at `FONT_BASE`, and 0 everywhere else
(10 R42, R44). -/

namespace Sys2Proof.Machine

/-- `FONT_BASE` (00 R15; 90 C1 chooses 0). UNVERIFIED, unsafe: log entry 4. -/
def Memory.fontBase : Nat := 0

/-- The sixteen glyphs of the font table (20 R63), top row first. The bytes are the spec's default table, which it
marks as general knowledge. PRESUMED, unsafe: log entry 3. -/
def Memory.fontGlyphs : List (List Byte) :=
  [[0xF0, 0x90, 0x90, 0x90, 0xF0], [0x20, 0x60, 0x20, 0x20, 0x70],
   [0xF0, 0x10, 0xF0, 0x80, 0xF0], [0xF0, 0x10, 0xF0, 0x10, 0xF0],
   [0x90, 0x90, 0xF0, 0x10, 0x10], [0xF0, 0x80, 0xF0, 0x10, 0xF0],
   [0xF0, 0x80, 0xF0, 0x90, 0xF0], [0xF0, 0x10, 0x20, 0x40, 0x40]] ++
  [[0xF0, 0x90, 0xF0, 0x90, 0xF0], [0xF0, 0x90, 0xF0, 0x10, 0xF0],
   [0xF0, 0x90, 0xF0, 0x90, 0x90], [0xE0, 0x90, 0xE0, 0x90, 0xE0],
   [0xF0, 0x80, 0x80, 0x80, 0xF0], [0xE0, 0x90, 0x90, 0x90, 0xE0],
   [0xF0, 0x80, 0xF0, 0x80, 0xF0], [0xF0, 0x80, 0xF0, 0x80, 0x80]]

/-- The 80 font bytes in address order: glyph `d` at `FONT_BASE + 5*d` (20 R63). -/
def Memory.font : List Byte := Memory.fontGlyphs.flatten

/-- What a memory cell that nothing has written reads as: its reset contents (10 R42, R43, R44), the font at
`FONT_BASE` and 0 everywhere else. The ONE definition of the contents of unlisted addresses. -/
def Memory.initialByte (a : Nat) : Byte :=
  if Memory.fontBase ≤ a then Memory.font.getD (a - Memory.fontBase) 0 else 0

end Sys2Proof.Machine
end

