-- ==== Sys2Proof/Machine/State.lean ====
section
/-! DEFINITION. The state of CORE as plain data: everything of spec 10 R25 to R44, and two fields of the model's own
(`draws`, `build`), with its value after reset (10 R44, 70 R179). -/

namespace Sys2Proof.Machine

/-- The fault that the latch `FAULT` holds (10 R41, 60 R155, R163): each constructor is one fault code with the
fields its record carries (`word`, `pc_fetch`, `info`). A fault of a step is TAKEN as the spec describes: the step
answers a next state whose latch holds it, so no step and no meaning answers `Outcome.fault`, and none of these is a
stop of the model. DEDUCED, safe: log entry 10. -/
inductive Fault where
  /-- Code 1, raised by the dispatch of a step for a word in no row of the opcode map (60 R156). Safe: it is the
  spec's own effect. -/
  | unknownInstruction (word pcFetch : Word)
  /-- Code 2, raised by `CALL` with a full stack (60 R157). Safe: it is the spec's own effect. -/
  | stackOverflow (word pcFetch : Word)
  /-- Code 3, raised by `RET` with an empty stack (60 R158). Safe: it is the spec's own effect. -/
  | stackUnderflow (word pcFetch : Word)
  /-- Code 4, raised by a fetch (then `word` is `none`) and by `DRW`, `LD B`, `LD [I]`, `LD Vx, [I]` for an address
  above 4095; `addr` is the lowest such address (60 R159). Safe: it is the spec's own effect. -/
  | memoryOutOfRange (word : Option Word) (pcFetch : Word) (addr : Nat)
  /-- Code 5, raised by `DRW` under the policy `fault` for a sprite row below row 31; `row` is the highest row
  coordinate (60 R160). Safe: it is the spec's own effect. -/
  | drawOutOfRange (word pcFetch : Word) (row : Nat)
  deriving DecidableEq, Repr

/-- Why an event is refused. -/
inductive Refusal where
  /-- An instruction without a meaning in this model, by its mnemonic: raised by `exec`'s refused arms only, of which
  there are none. Safe: the machine goes nowhere. -/
  | notModelled (mnemonic : String)
  /-- `ProgramTooLarge` (code 6), raised by the host event `load` for an image longer than 3584 bytes; the state
  stays as it was (60 R161, 70 R181). Safe: it is the spec's own effect. -/
  | programTooLarge (size capacity : Nat)
  deriving DecidableEq, Repr

/-- `RUN` (10 R40). -/
inductive RunState where
  | running
  /-- `LD Vx, K` found no key: the key goes to register `target` (44 R147, R148). -/
  | awaitingKey (target : Nibble)
  deriving DecidableEq, Repr

/-- The OPEN parameters of a build (00 R12, R13): arguments of the step that no event changes. -/
structure Build where
  /-- `STACK_CAPACITY`. -/
  stackCapacity : Nat
  /-- `DRAW_ROW_POLICY`. -/
  rowPolicy : RowPolicy
  deriving DecidableEq, Repr

/-- The state of the machine. -/
structure State where
  /-- `x[0]` to `x[15]` (10 R25); `x[15]` is also the flag register `VF` (10 R28). -/
  regs : Vector Byte 16
  /-- `I` (10 R30). -/
  index : Word
  /-- `PC` (10 R31). -/
  pc : Word
  /-- `SP`: how many slots of the stack are occupied (10 R35). -/
  sp : Nat
  /-- `STACK` (10 R34): the slots that do not hold 0, as (slot, value), slots rising. -/
  stack : List (Nat × Word)
  /-- `DT`, the delay timer (10 R36). -/
  dt : Byte
  /-- `ST`, the sound timer (10 R36). -/
  st : Byte
  /-- `FB` (10 R37). -/
  fb : Bitmap
  /-- `DIRTY` (10 R38). -/
  dirty : Bool
  /-- `KEY` (10 R39). -/
  key : Option Nibble
  /-- `RUN` (10 R40). -/
  run : RunState
  /-- `FAULT` (10 R41). -/
  fault : Option Fault
  /-- `MEM` (10 R42): the cells that differ from their reset contents, as (address, byte), addresses rising. -/
  mem : List Host.Cell
  /-- The model's own: how many random draws were made; it names the next free byte (40 R109).
  DESIGN CHOICE, safe: log entry 1. -/
  draws : Nat
  /-- The model's own: the build's open parameters (00 R12, R13). DESIGN CHOICE, safe: log entry 2. -/
  build : Build
  deriving DecidableEq, Repr

/-- The machine right after reset (10 R44, 70 R179). -/
def State.reset : State where
  regs := Vector.replicate 16 0
  index := 0
  pc := 512
  sp := 0
  stack := []
  dt := 0
  st := 0
  fb := Vector.replicate 32 0
  dirty := Config.resetDirty
  key := none
  run := .running
  fault := none
  mem := []
  draws := 0
  build := ⟨Config.stackCapacity, Config.drawRowPolicy⟩

end Sys2Proof.Machine
end

