-- ==== Sys2Proof/Machine/Ops.lean ====
section
/-! DEFINITION. The named operations over the state: sparse stores in canonical form, memory, registers, the call
stack, the framebuffer, taking a fault. Every meaning reads and writes the state through these. -/

namespace Sys2Proof.Machine

/-! Sparse stores: a list of (key, value) pairs, where a key that is not listed reads as `initial key`. -/

/-- The value at key `a`. -/
def sparseRead {α : Type} (initial : Nat → α) : List (Nat × α) → Nat → α
  | [], a => initial a
  | (k, v) :: rest, a => if k = a then v else sparseRead initial rest a

/-- The list without any entry of key `a`. -/
def sparseErase {α : Type} : List (Nat × α) → Nat → List (Nat × α)
  | [], _ => []
  | (k, v) :: rest, a => if k = a then sparseErase rest a else (k, v) :: sparseErase rest a

/-- The list with the entry `(a, v)` before the first larger key. -/
def sparseInsert {α : Type} : List (Nat × α) → Nat → α → List (Nat × α)
  | [], a, v => [(a, v)]
  | (k, w) :: rest, a, v => if a < k then (a, v) :: (k, w) :: rest else (k, w) :: sparseInsert rest a v

/-- The store with `v` at key `a`: writing what an unlisted key reads as removes the entry. -/
def sparseWrite {α : Type} [DecidableEq α] (initial : Nat → α) (m : List (Nat × α)) (a : Nat) (v : α) :
    List (Nat × α) :=
  if v = initial a then sparseErase m a else sparseInsert (sparseErase m a) a v

/-- The canonical form: keys strictly rising and below `bound`, no entry equal to what an unlisted key reads as. -/
abbrev sparseWf {α : Type} [DecidableEq α] (initial : Nat → α) (bound : Nat) (m : List (Nat × α)) : Prop :=
  m.Pairwise (fun p q => p.1 < q.1) ∧ ∀ c ∈ m, c.1 < bound ∧ c.2 ≠ initial c.1

/-! Memory (20 R53 to R65). The range of an access is checked before it (`outOfRange`). -/

/-- `MemRead(a, 1)` (00 R20). -/
def Memory.read (m : List Host.Cell) (a : Nat) : Byte := sparseRead Memory.initialByte m a

/-- `MemWrite(a, 1, v)` (00 R20). -/
def Memory.write (m : List Host.Cell) (a : Nat) (v : Byte) : List Host.Cell :=
  sparseWrite Memory.initialByte m a v

/-- Bytes stored one by one at ascending addresses from `a` (20 R57). -/
def Memory.writeBytes (m : List Host.Cell) (a : Nat) : List Byte → List Host.Cell
  | [] => m
  | v :: vs => Memory.writeBytes (Memory.write m a v) (a + 1) vs

/-- The canonical form of memory: addresses of the 4096-byte space, strictly rising, none with its reset contents. -/
abbrev Memory.wf (m : List Host.Cell) : Prop := sparseWf Memory.initialByte (Config.lastAddress + 1) m

/-- The byte of memory at `a`. -/
def State.byteAt (s : State) (a : Nat) : Byte := Memory.read s.mem a

/-- `MemRead(a, 2)`: the big-endian word at `a` (20 R56). -/
def State.wordAt (s : State) (a : Nat) : Word := wordOfBytes (s.byteAt a) (s.byteAt (a + 1))

/-- The lowest address above 4095 that an access to `len` bytes from `start` would touch, if there is one: the whole
range is checked before any effect (20 R59). -/
def outOfRange (start len : Nat) : Option Nat :=
  if 0 < len ∧ Config.lastAddress < start + len - 1 then some (max start (Config.lastAddress + 1)) else none

/-! Registers (10 R25 to R29): the one place that reads or writes them. -/

/-- `x[r]`. -/
def State.reg (s : State) (r : Nibble) : Byte := s.regs[r.toNat]'r.isLt

/-- `x[r] <- v`. -/
def State.setReg (s : State) (r : Nibble) (v : Byte) : State := { s with regs := s.regs.set r.toNat v r.isLt }

/-- `x[15] <- 1 if b else 0`: a flag written to `VF` (10 R28). -/
def State.setFlag (s : State) (b : Bool) : State := s.setReg 15 (if b then 1 else 0)

/-- The flag first and the result second (10 R29, 40 R108): with `r = 15` the result is what remains. -/
def State.setFlagThenReg (s : State) (b : Bool) (r : Nibble) (v : Byte) : State := (s.setFlag b).setReg r v

/-- The values of registers 0 to `r`, in order (42 R130). -/
def State.regsUpTo (s : State) (r : Nibble) : List Byte := s.regs.toList.take (r.toNat + 1)

/-- `x[j] <- values j` for `j` from 0 to `r` (42 R131). -/
def State.setRegsUpTo (s : State) (r : Nibble) (values : Nat → Byte) : State :=
  { s with regs := Vector.ofFn fun j : Fin 16 => if j.val ≤ r.toNat then values j.val else s.regs[j.val] }

/-! The program counter (10 R31 to R33). -/

/-- `PC <- target`. -/
def State.setPc (s : State) (target : Word) : State := { s with pc := target }

/-- `PC <- (PC + 2) mod 65536`: the advance of the fetch, and a taken skip (00 R21, 41 R122). -/
def State.skip (s : State) : State := s.setPc (s.pc + 2)

/-- Skip the next instruction when `c` holds; no effect otherwise (41 R122). -/
def State.skipIf (s : State) (c : Bool) : State := if c then s.skip else s

/-! Taking a fault (60 R163): the one operation by which a step raises one. There is no return from a fault: only
`reset()` and a successful `load()` clear the latch (60 R165). -/

/-- `FAULT <- f`, and nothing else. -/
def State.latchFault (s : State) (f : Fault) : State := { s with fault := some f }

/-- `pc_fetch` seen from the execute part of a step: the fetch has advanced `PC` by 2 (60 R164). DEDUCED, safe: log
entry 11. -/
def State.pcFetch (s : State) : Word := s.pc - 2

/-- Continue with `t` if the access to `len` bytes from `I` by instruction `i` is in range, else raise
`MemoryOutOfRange` with nothing else changed (20 R59). -/
def State.guardRange (s : State) (i : Instr) (len : Nat) (t : State) : State :=
  match outOfRange s.index.toNat len with
  | some a => s.latchFault (.memoryOutOfRange (some (encode i)) s.pcFetch a)
  | none => t

/-! The call stack (10 R34, R35; 41 R113, R115). -/

/-- What a slot that no push has written holds (10 R34). -/
def Stack.initialSlot (_ : Nat) : Word := 0

/-- `STACK[k]`. -/
def Stack.read (m : List (Nat × Word)) (k : Nat) : Word := sparseRead Stack.initialSlot m k

/-- `STACK[k] <- v`. -/
def Stack.write (m : List (Nat × Word)) (k : Nat) (v : Word) : List (Nat × Word) :=
  sparseWrite Stack.initialSlot m k v

/-- The canonical form of a stack of `capacity` slots. -/
abbrev Stack.wf (capacity : Nat) (m : List (Nat × Word)) : Prop := sparseWf Stack.initialSlot capacity m

/-- `STACK[k]` of a state. -/
def State.slot (s : State) (k : Nat) : Word := Stack.read s.stack k

/-- Push `PC`: `STACK[SP] <- PC; SP <- SP + 1` (41 R113). -/
def State.pushPc (s : State) : State := { s with stack := Stack.write s.stack s.sp s.pc, sp := s.sp + 1 }

/-- Pop into `PC`: `SP <- SP - 1; PC <- STACK[SP]`; the slot keeps its value (41 R115, 10 R35). -/
def State.popPc (s : State) : State := { s with sp := s.sp - 1, pc := s.slot (s.sp - 1) }

/-! The framebuffer (10 R37, 43 R133). -/

/-- `FB[i]`: row `i div 64`, column `i mod 64`; false outside the 2048 cells. -/
def Bitmap.get (fb : Bitmap) (i : Nat) : Bool := (fb[i / 64]?.getD 0).getLsbD (i % 64)

/-- `FB[i] <- FB[i] xor 1`; nothing outside the 2048 cells. -/
def Bitmap.toggle (fb : Bitmap) (i : Nat) : Bitmap :=
  fb.setIfInBounds (i / 64) (fb[i / 64]?.getD 0 ^^^ BitVec.twoPow 64 (i % 64))

/-- The bitmap with every pixel off (43 R134). -/
def Bitmap.clear : Bitmap := Vector.replicate 32 0

/-- `FB[i]` of a state. -/
def State.pixel (s : State) (i : Nat) : Bool := Bitmap.get s.fb i

/-- Visit the pixels of a sprite in order: XOR each, and note a collision when a pixel that was on is turned off
(43 R135, R138). -/
def blit : List Nat → Bitmap → Bool → Bitmap × Bool
  | [], fb, hit => (fb, hit)
  | i :: rest, fb, hit => blit rest (Bitmap.toggle fb i) (hit || Bitmap.get fb i)

end Sys2Proof.Machine
end

