-- ==== Sys2Proof/Machine/Alu.lean ====
section
/-! DEFINITION. The meanings of the ALU and register instructions (spec 40). The fetch has already advanced `PC`, and
none of these changes it again; none raises a fault (40 R93). -/

namespace Sys2Proof.Machine

/-- `LD Vx, byte` (40 R94). -/
def execLdImm (x : Nibble) (nn : Byte) (s : State) : Host.Outcome State Fault Refusal :=
  .next (s.setReg x nn)

/-- `ADD Vx, byte` (40 R95). -/
def execAddImm (x : Nibble) (nn : Byte) (s : State) : Host.Outcome State Fault Refusal :=
  .next (s.setReg x (sumByte (s.reg x) nn))

/-- `LD Vx, Vy` (40 R96). -/
def execLdReg (x y : Nibble) (s : State) : Host.Outcome State Fault Refusal :=
  .next (s.setReg x (s.reg y))

/-- `OR Vx, Vy` (40 R97). -/
def execOrReg (x y : Nibble) (s : State) : Host.Outcome State Fault Refusal :=
  .next (s.setReg x (s.reg x ||| s.reg y))

/-- `AND Vx, Vy` (40 R98). -/
def execAndReg (x y : Nibble) (s : State) : Host.Outcome State Fault Refusal :=
  .next (s.setReg x (s.reg x &&& s.reg y))

/-- `XOR Vx, Vy` (40 R99). -/
def execXorReg (x y : Nibble) (s : State) : Host.Outcome State Fault Refusal :=
  .next (s.setReg x (s.reg x ^^^ s.reg y))

/-- `ADD Vx, Vy` (40 R100). -/
def execAddReg (x y : Nibble) (s : State) : Host.Outcome State Fault Refusal :=
  .next (s.setFlagThenReg (carryFlag (s.reg x) (s.reg y)) x (sumByte (s.reg x) (s.reg y)))

/-- `SUB Vx, Vy` (40 R101). -/
def execSubReg (x y : Nibble) (s : State) : Host.Outcome State Fault Refusal :=
  .next (s.setFlagThenReg (greaterFlag (s.reg x) (s.reg y)) x (differenceByte (s.reg x) (s.reg y)))

/-- `SHR Vx` (40 R102): the `Y` field is ignored. -/
def execShr (x _y : Nibble) (s : State) : Host.Outcome State Fault Refusal :=
  .next (s.setFlagThenReg (lowBitFlag (s.reg x)) x (halfByte (s.reg x)))

/-- `SUBN Vx, Vy` (40 R103). -/
def execSubnReg (x y : Nibble) (s : State) : Host.Outcome State Fault Refusal :=
  .next (s.setFlagThenReg (greaterFlag (s.reg y) (s.reg x)) x (differenceByte (s.reg y) (s.reg x)))

/-- `SHL Vx` (40 R104): the `Y` field is ignored. -/
def execShl (x _y : Nibble) (s : State) : Host.Outcome State Fault Refusal :=
  .next (s.setFlagThenReg (highBitFlag (s.reg x)) x (doubleByte (s.reg x)))

/-- The machine after one random draw (40 R109): the draw is used up. -/
def State.countDraw (s : State) : State := { s with draws := s.draws + 1 }

/-- `RND Vx, byte` (40 R105): the next free byte ANDed with the mask (40 R109, log entry 1). -/
def execRnd (x : Nibble) (nn : Byte) (s : State) : Host.Outcome State Fault Refusal :=
  .next (s.countDraw.setReg x (Config.drawByte s.draws &&& nn))

end Sys2Proof.Machine
end

