-- ==== Sys2Proof/Machine/Operands.lean ====
section
/-! DEFINITION. The operand forms beyond a plain register or immediate: zero-extended addresses, the offset jump, the
font address, decimal digits, the key compare, and the pixels a sprite names. -/

namespace Sys2Proof.Machine

/-- `NNN` zero-extended to 16 bits (30 R76). -/
def addressWord (nnn : Addr12) : Word := nnn.setWidth 16

/-- The target of `JP V0, addr`: `(NNN + x[0]) mod 65536` (41 R114). -/
def State.offsetTarget (s : State) (nnn : Addr12) : Word := BitVec.ofNat 16 (nnn.toNat + (s.reg 0).toNat)

/-- `(I + v) mod 65536` (42 R127). -/
def indexPlus (index : Word) (v : Byte) : Word := BitVec.ofNat 16 (index.toNat + v.toNat)

/-- The address of the glyph of the digit in the low nibble of `v`: `FONT_BASE + 5 * v[3:0]` (42 R128). -/
def glyphAddress (v : Byte) : Word := BitVec.ofNat 16 (Memory.fontBase + 5 * (v.toNat % 16))

/-- The hundreds, tens and ones digits of `v` (42 R129). -/
def decimalDigits (v : Byte) : List Byte :=
  [BitVec.ofNat 8 (v.toNat / 100), BitVec.ofNat 8 (v.toNat / 10 % 10), BitVec.ofNat 8 (v.toNat % 10)]

/-- A key code as the 8 bits a register holds. -/
def keyByte (k : Nibble) : Byte := k.setWidth 8

/-- `KEY != none and KEY = x[X]`, on all 8 bits of the register (41 R120). -/
def State.keyMatches (s : State) (x : Nibble) : Bool :=
  match s.key with
  | some k => keyByte k == s.reg x
  | none => false

/-- The framebuffer row on which a sprite row with row coordinate `r` is drawn, if it is drawn (43 R137). Under
`fault` a sprite with a row below row 31 has been refused before. -/
def drawnRow (policy : RowPolicy) (r : Nat) : Option Nat :=
  if r ≤ 31 then some r
  else match policy with
    | .wrap => some (r % 32)
    | .clip => none
    | .fault => none

/-- The flat indices of the pixels that the sprite byte `b` turns over, drawn on row `r` from column `x0`: bit 7 is
the leftmost, columns wrap modulo 64 (43 R135, R136). -/
def rowPixels (b : Byte) (r x0 : Nat) : List Nat :=
  (List.range 8).filterMap fun col => if b.getLsbD (7 - col) then some (r * 64 + (x0 + col) % 64) else none

/-- The pixels of one sprite row: none where the policy does not draw it (43 R137). -/
def spriteRowPixels (policy : RowPolicy) (b : Byte) (r x0 : Nat) : List Nat :=
  match drawnRow policy r with
  | some r' => rowPixels b r' x0
  | none => []

/-- The pixels that the `n`-row sprite at `I` turns over, drawn at column `x0`, row `y0`, row by row (43 R135). -/
def State.spritePixels (s : State) (x0 y0 n : Nat) : List Nat :=
  (List.range n).flatMap fun row =>
    spriteRowPixels s.build.rowPolicy (s.byteAt (s.index.toNat + row)) (y0 + row) x0

/-- Whether a draw of `n` rows from row `y0` is refused by the policy `fault` (43 R135, R137). -/
def State.rowFault (s : State) (y0 n : Nat) : Bool :=
  decide (0 < n ∧ 31 < y0 + n - 1) && s.build.rowPolicy == .fault

end Sys2Proof.Machine
end

