-- ==== Sys2Proof/Machine/Control.lean ====
section
/-! DEFINITION. The meanings of the control transfers (spec 41). `PC` already holds the address of the instruction
plus 2. -/

namespace Sys2Proof.Machine

/-- `JP addr` (41 R112). -/
def execJp (nnn : Addr12) (s : State) : Host.Outcome State Fault Refusal :=
  .next (s.setPc (addressWord nnn))

/-- `CALL addr` (41 R113): with a full stack it raises `StackOverflow` and the jump is not taken (60 R157). An `SP`
above the capacity, which no run reaches, counts as full. DEDUCED, safe: log entry 12. -/
def execCall (nnn : Addr12) (s : State) : Host.Outcome State Fault Refusal :=
  if s.sp < s.build.stackCapacity then .next (s.pushPc.setPc (addressWord nnn))
  else .next (s.latchFault (.stackOverflow (encode (.call nnn)) s.pcFetch))

/-- `JP V0, addr` (41 R114). -/
def execJpV0 (nnn : Addr12) (s : State) : Host.Outcome State Fault Refusal :=
  .next (s.setPc (s.offsetTarget nnn))

/-- `RET` (41 R115): with an empty stack it raises `StackUnderflow` (60 R158). -/
def execRet (s : State) : Host.Outcome State Fault Refusal :=
  if s.sp = 0 then .next (s.latchFault (.stackUnderflow (encode .ret) s.pcFetch))
  else .next s.popPc

/-- `SE Vx, byte` (41 R116). -/
def execSeImm (x : Nibble) (nn : Byte) (s : State) : Host.Outcome State Fault Refusal :=
  .next (s.skipIf (s.reg x == nn))

/-- `SNE Vx, byte` (41 R117). -/
def execSneImm (x : Nibble) (nn : Byte) (s : State) : Host.Outcome State Fault Refusal :=
  .next (s.skipIf (s.reg x != nn))

/-- `SE Vx, Vy` (41 R118): the low nibble is ignored. -/
def execSeReg (x y _z : Nibble) (s : State) : Host.Outcome State Fault Refusal :=
  .next (s.skipIf (s.reg x == s.reg y))

/-- `SNE Vx, Vy` (41 R119): the low nibble is ignored. -/
def execSneReg (x y _z : Nibble) (s : State) : Host.Outcome State Fault Refusal :=
  .next (s.skipIf (s.reg x != s.reg y))

/-- `SKP Vx` (41 R120). -/
def execSkp (x : Nibble) (s : State) : Host.Outcome State Fault Refusal :=
  .next (s.skipIf (s.keyMatches x))

/-- `SKNP Vx` (41 R121). -/
def execSknp (x : Nibble) (s : State) : Host.Outcome State Fault Refusal :=
  .next (s.skipIf (!s.keyMatches x))

end Sys2Proof.Machine
end

