-- ==== Sys2Proof/Machine/Display.lean ====
section
/-! DEFINITION. The meanings of the framebuffer instructions (spec 43). -/

namespace Sys2Proof.Machine

/-- `DIRTY <- 1` with the framebuffer `fb` (43 R134, R140). -/
def State.setFb (s : State) (fb : Bitmap) : State := { s with fb := fb, dirty := true }

/-- `CLS` (43 R134). -/
def execCls (s : State) : Host.Outcome State Fault Refusal :=
  .next (s.setFb Bitmap.clear)

/-- The drawing of a sprite once its checks have passed (43 R135): XOR its pixels, the collision to `VF`. -/
def State.drawSprite (s : State) (pixels : List Nat) : State :=
  (s.setFb (blit pixels s.fb false).1).setFlag (blit pixels s.fb false).2

/-- `DRW Vx, Vy, nibble` (43 R135 to R141): the memory check first, then the row check (60 R162), each before any
effect. -/
def execDrw (x y n : Nibble) (s : State) : Host.Outcome State Fault Refusal :=
  .next (s.guardRange (.drw x y n) n.toNat
    (if s.rowFault (s.reg y).toNat n.toNat then
      s.latchFault (.drawOutOfRange (encode (.drw x y n)) s.pcFetch ((s.reg y).toNat + n.toNat - 1))
    else s.drawSprite (s.spritePixels (s.reg x).toNat (s.reg y).toNat n.toNat)))

end Sys2Proof.Machine
end

