-- ==== Sys2Proof/Machine/IndexMemory.lean ====
section
/-! DEFINITION. The meanings of the index register instructions, the stores and the loads (spec 42). The range of a
store or load is checked whole before any effect (20 R59); none but the first three changes `I` (42 R132). -/

namespace Sys2Proof.Machine

/-- `I <- v`. -/
def State.setIndex (s : State) (v : Word) : State := { s with index := v }

/-- Store the bytes `vs` at `I`, `I + 1`, and so on. -/
def State.storeAtIndex (s : State) (vs : List Byte) : State :=
  { s with mem := Memory.writeBytes s.mem s.index.toNat vs }

/-- `LD I, addr` (42 R126). -/
def execLdI (nnn : Addr12) (s : State) : Host.Outcome State Fault Refusal :=
  .next (s.setIndex (addressWord nnn))

/-- `ADD I, Vx` (42 R127). -/
def execAddI (x : Nibble) (s : State) : Host.Outcome State Fault Refusal :=
  .next (s.setIndex (indexPlus s.index (s.reg x)))

/-- `LD F, Vx` (42 R128). -/
def execLdF (x : Nibble) (s : State) : Host.Outcome State Fault Refusal :=
  .next (s.setIndex (glyphAddress (s.reg x)))

/-- `LD B, Vx` (42 R129). -/
def execLdB (x : Nibble) (s : State) : Host.Outcome State Fault Refusal :=
  .next (s.guardRange (.ldB x) 3 (s.storeAtIndex (decimalDigits (s.reg x))))

/-- `LD [I], Vx` (42 R130). -/
def execStRegs (x : Nibble) (s : State) : Host.Outcome State Fault Refusal :=
  .next (s.guardRange (.stRegs x) (x.toNat + 1) (s.storeAtIndex (s.regsUpTo x)))

/-- `LD Vx, [I]` (42 R131). -/
def execLdRegs (x : Nibble) (s : State) : Host.Outcome State Fault Refusal :=
  .next (s.guardRange (.ldRegs x) (x.toNat + 1) (s.setRegsUpTo x fun j => s.byteAt (s.index.toNat + j)))

end Sys2Proof.Machine
end

