-- ==== Sys2Proof/Machine/TimersKeys.lean ====
section
/-! DEFINITION. The meanings of the timer instructions and of the key wait (spec 44), and the step that resolves a
pending key wait. -/

namespace Sys2Proof.Machine

/-- `LD Vx, DT` (44 R143). -/
def execLdVxDt (x : Nibble) (s : State) : Host.Outcome State Fault Refusal :=
  .next (s.setReg x s.dt)

/-- `LD DT, Vx` (44 R144). -/
def execLdDtVx (x : Nibble) (s : State) : Host.Outcome State Fault Refusal :=
  .next { s with dt := s.reg x }

/-- `LD ST, Vx` (44 R145). -/
def execLdStVx (x : Nibble) (s : State) : Host.Outcome State Fault Refusal :=
  .next { s with st := s.reg x }

/-- `LD Vx, K` (44 R147): a key that is there completes it, else the machine awaits one. -/
def execLdVxK (x : Nibble) (s : State) : Host.Outcome State Fault Refusal :=
  match s.key with
  | some k => .next (s.setReg x (keyByte k))
  | none => .next { s with run := .awaitingKey x }

/-- A step while a key is awaited for register `t` (44 R148): it delivers the key if there is one, and fetches
nothing. -/
def State.resolveKeyWait (s : State) (t : Nibble) : State :=
  match s.key with
  | some k => { s.setReg t (keyByte k) with run := .running }
  | none => s

end Sys2Proof.Machine
end

