-- ==== Sys2Proof/Machine/Fetch.lean ====
section
/-! DEFINITION. Everything of a step before the execute part (41 R111): the latched fault, the pending key wait, the
fetch, the dispatch. -/

namespace Sys2Proof.Machine

/-- Whether a word can be fetched at `PC`: both of its bytes are in memory (20 R60). -/
def State.canFetch (s : State) : Bool := decide (s.pc.toNat + 1 ≤ Config.lastAddress)

/-- The state after a fetch that cannot happen: `MemoryOutOfRange` with `PC` not advanced (20 R60). -/
def State.fetchFault (s : State) : State :=
  s.latchFault (.memoryOutOfRange none s.pc (max s.pc.toNat (Config.lastAddress + 1)))

/-- Fetch the word at `PC`, advance `PC`, and find the instruction to execute; a word that is none raises
`UnknownInstruction` (41 R111, 60 R156). -/
def State.fetchDecode (s : State) : State × Option Instr :=
  match decodeWord (s.wordAt s.pc.toNat) with
  | .ok i => (s.skip, some i)
  | .error _ => (s.skip.latchFault (.unknownInstruction (s.wordAt s.pc.toNat) s.pc), none)

/-- A step up to the execute part: the state it leaves, and the instruction to execute, if there is one. -/
def State.beforeExecute (s : State) : State × Option Instr :=
  if s.fault.isSome then (s, none)
  else match s.run with
    | .awaitingKey t => (s.resolveKeyWait t, none)
    | .running => if s.canFetch then s.fetchDecode else (s.fetchFault, none)

/-- The state with the word `w` where the next step fetches its instruction: its two bytes at `PC` and `PC + 1`, and
neither a latched fault nor a pending key wait to keep the step from fetching. A `PC` above 4094 has no place for a
word. DEDUCED, safe: log entry 9. -/
def State.placeWord (s : State) (w : Word) : State :=
  { s with
    run := .running
    fault := none
    mem := if s.canFetch then Memory.writeBytes s.mem s.pc.toNat [highByte w, lowByte w] else s.mem }

end Sys2Proof.Machine
end

