-- ==== Sys2Proof/Machine/Step.lean ====
section
/-! DEFINITION. `step()` (41 R111), the one event of the core agent. -/

namespace Sys2Proof.Machine

/-- One step: what comes before the execute part, and then the instruction, if one was fetched. -/
def step (s : State) : Host.Outcome State Fault Refusal :=
  match s.beforeExecute with
  | (t, some i) => exec i t
  | (t, none) => .next t

/-- The state with the instruction of a table row's bits stored where the next step fetches (the whole of a load of
that one word, log entry 9). -/
def State.withFetchWord (s : State) (nbits w : Nat) : State := s.placeWord (tableWord nbits w)

end Sys2Proof.Machine
end

