-- ==== Sys2Proof/Machine/Events.lean ====
section
/-! DEFINITION. The events through which the outside touches the machine (00 R22): each is atomic, and any sequence of
them is an execution (00 R23). What the host can see of the state stands beside them (10 R46, 60 R171). -/

namespace Sys2Proof.Machine

/-- `reset()` (70 R179). The random source is not reset (40 R109), and the build stays the build. -/
def State.resetEvent (s : State) : State := { State.reset with draws := s.draws, build := s.build }

/-- `load(bytes)` (70 R180, R181): an image that does not fit is refused with the state untouched. DEDUCED, safe: log
entry 13. -/
def load (bytes : List Byte) (s : State) : Host.Outcome State Fault Refusal :=
  if bytes.length ≤ Config.programCapacity then
    .next { s.resetEvent with mem := Memory.writeBytes s.resetEvent.mem Config.loadOffset bytes }
  else .refused (.programTooLarge bytes.length Config.programCapacity)

/-- One timer's share of a tick: down by 1, never below 0 (44 R149). -/
def countDown (t : Byte) : Byte := if t = 0 then 0 else t - 1

/-- `tick()` (44 R149). -/
def State.tick (s : State) : State := { s with dt := countDown s.dt, st := countDown s.st }

/-- `set_key(k)` (44 R151). -/
def State.setKey (s : State) (k : Option Nibble) : State := { s with key := k }

/-- `clear_dirty()` (10 R38). -/
def State.clearDirty (s : State) : State := { s with dirty := false }

/-- `is_dirty()`: a pure read (60 R171). -/
def State.isDirty (s : State) : Bool := s.dirty

/-- `read_fb(i)`: a pure read, 1 for on (60 R171). -/
def State.readFb (s : State) (i : Fin 2048) : BitVec 1 := BitVec.ofBool (s.pixel i.val)

/-- The fault that a step which ends in this state reports to its caller, if any (60 R163). -/
def State.reportedFault (s : State) : Option Fault := s.fault

/-- The number of a fault of a step (60 R155): 1 to 5. -/
def Fault.code : Fault → Nat
  | .unknownInstruction _ _ => 1
  | .stackOverflow _ _ => 2
  | .stackUnderflow _ _ => 3
  | .memoryOutOfRange _ _ _ => 4
  | .drawOutOfRange _ _ _ => 5

/-- The number of a refused event (60 R155): 6 for `ProgramTooLarge`; the refusal of an instruction
without a meaning is the model's own and has none. -/
def Refusal.code : Refusal → Option Nat
  | .programTooLarge _ _ => some 6
  | _ => none

/-- What a refused event tells the host (60 R155, R161): the size and the capacity of `ProgramTooLarge`. -/
def Refusal.info : Refusal → Option (Nat × Nat)
  | .programTooLarge size capacity => some (size, capacity)
  | _ => none

/-- The word a fault records: `none` for a fetch fault (60 R163). -/
def Fault.word : Fault → Option Word
  | .unknownInstruction w _ => some w
  | .stackOverflow w _ => some w
  | .stackUnderflow w _ => some w
  | .memoryOutOfRange w _ _ => w
  | .drawOutOfRange w _ _ => some w

/-- The fetch address a fault records (60 R163). -/
def Fault.pcFetch : Fault → Word
  | .unknownInstruction _ p => p
  | .stackOverflow _ p => p
  | .stackUnderflow _ p => p
  | .memoryOutOfRange _ p _ => p
  | .drawOutOfRange _ p _ => p

/-- The `info` a fault records: an address or a row (60 R155). -/
def Fault.info : Fault → Option Nat
  | .unknownInstruction _ _ => none
  | .stackOverflow _ _ => none
  | .stackUnderflow _ _ => none
  | .memoryOutOfRange _ _ a => some a
  | .drawOutOfRange _ _ r => some r

/-- The events of the machine (00 R22). Overlaps, cadence and fairness are left out. DESIGN CHOICE, safe: log entry 6. -/
inductive Event where
  | reset
  | load (bytes : List Byte)
  | step
  | tick
  | setKey (k : Option Nibble)
  | clearDirty
  | isDirty
  | readFb (i : Fin 2048)
  deriving DecidableEq, Repr

/-- What an event does; the two reads change nothing. -/
def handle (e : Event) (s : State) : Host.Outcome State Fault Refusal :=
  match e with
  | .reset => .next s.resetEvent
  | .load bytes => Sys2Proof.Machine.load bytes s
  | .step => Sys2Proof.Machine.step s
  | .tick => .next s.tick
  | .setKey k => .next (s.setKey k)
  | .clearDirty => .next s.clearDirty
  | .isDirty => .next s
  | .readFb _ => .next s

/-- The state after an event: a refused one leaves the state exactly as it was (60 R161). -/
def State.after (s : State) (e : Event) : State :=
  match handle e s with
  | .next t => t
  | .fault _ => s
  | .refused _ => s

/-- The state after a sequence of events, any order of which is an execution (00 R23). -/
def runEvents (s : State) : List Event → State
  | [] => s
  | e :: es => runEvents (s.after e) es

end Sys2Proof.Machine
end

