-- ==== Sys2Proof/Safety.lean ====
section
/-! DEFINITION. The terms in which claims are made: what two states agree on and what an instruction leaves unchanged,
the invariant of the machine, the ends of a run, and what an instruction names as its registers. -/

namespace Sys2Proof.Machine

/-- The pieces of the state other than the general-purpose registers (10 R44), and the model's own two. -/
inductive Part where
  | pc | index | stack | dt | st | fb | dirty | key | run | fault | mem | draws | build
  deriving DecidableEq, Repr

/-- Two states hold the same in a piece: memory at every byte, the stack in its pointer and every slot, the
framebuffer at every pixel. -/
def Part.same : Part → State → State → Prop
  | .pc, s, t => t.pc = s.pc
  | .index, s, t => t.index = s.index
  | .stack, s, t => t.sp = s.sp ∧ ∀ k, t.slot k = s.slot k
  | .dt, s, t => t.dt = s.dt
  | .st, s, t => t.st = s.st
  | .fb, s, t => ∀ i, t.pixel i = s.pixel i
  | .dirty, s, t => t.dirty = s.dirty
  | .key, s, t => t.key = s.key
  | .run, s, t => t.run = s.run
  | .fault, s, t => t.fault = s.fault
  | .mem, s, t => ∀ a, t.byteAt a = s.byteAt a
  | .draws, s, t => t.draws = s.draws
  | .build, s, t => t.build = s.build

/-- The FRAME: from `s` to `t` nothing changes but the listed pieces and the listed registers. -/
def State.frame (changed : List Part) (written : List Nibble) (s t : State) : Prop :=
  (∀ r, r ∉ written → t.reg r = s.reg r) ∧ ∀ p : Part, p ∉ changed → p.same s t

/-- Two states hold the same in every register and every piece. -/
def State.sameState (s t : State) : Prop := State.frame [] [] s t

/-- THE INVARIANT of the machine, kept by every event and true at reset:
memory and the stack in canonical form; `SP` between 0 and the capacity, which is at least 1 (10 R35, 00 R12); `PC`
at most 4350, the farthest a transfer reaches (41 R114, R124); every slot at most 4096 and an occupied one at least 2
(41 R124); a latched fault with the run state `Running` and `PC` at the address it was fetched from plus 2, or at that
address itself for a fetch fault (60 R164); a `DrawOutOfRange` only under the policy `fault` (60 R160). -/
structure State.Inv (s : State) : Prop where
  memCanonical : Memory.wf s.mem
  stackCanonical : Stack.wf s.build.stackCapacity s.stack
  capacityPos : 1 ≤ s.build.stackCapacity
  spBound : s.sp ≤ s.build.stackCapacity
  pcBound : s.pc.toNat ≤ 4350
  slotBound : ∀ k, (s.slot k).toNat ≤ 4096
  liveSlots : ∀ k, k < s.sp → 2 ≤ (s.slot k).toNat
  faultRunning : s.fault ≠ none → s.run = .running
  faultPc : ∀ f, s.fault = some f → s.pc = if f.word = none then f.pcFetch else f.pcFetch + 2
  drawFaultPolicy : ∀ w p r, s.fault = some (.drawOutOfRange w p r) → s.build.rowPolicy = .fault

/-- The conventional good end of a run: the word at `PC` is a jump to itself, `0x1000 + PC` (70 R185). -/
def State.goodEnd (s : State) : Prop :=
  s.run = .running ∧ s.fault = none ∧ s.pc.toNat ≤ 4094 ∧ (s.wordAt s.pc.toNat).toNat = 0x1000 + s.pc.toNat

/-- The bad end of a run: a latched fault (70 R185). -/
def State.badEnd (s : State) : Prop := s.fault ≠ none

/-- A step from here fetches and executes: no latched fault, no pending key wait (41 R111). -/
def State.ready (s : State) : Prop := s.fault = none ∧ s.run = .running

/-- The sprite row `row` of an `n`-row sprite drawn from row `y0` is drawn on framebuffer row `r` (43 R137). -/
def State.rowDrawnOn (s : State) (y0 row r : Nat) : Prop :=
  (y0 + row ≤ 31 ∧ r = y0 + row) ∨ (31 < y0 + row ∧ s.build.rowPolicy = .wrap ∧ r = (y0 + row) % 32)

/-- The pixel `i` is named by a 1 bit of a drawn row of the `n`-row sprite at `I`, drawn at column `x0`, row `y0`:
the bit 7 - col of the byte at `I + row`, in column `(x0 + col) mod 64` (43 R135, R136). -/
def State.inSprite (s : State) (x0 y0 n i : Nat) : Prop :=
  ∃ row col r, row < n ∧ col < 8 ∧ s.rowDrawnOn y0 row r ∧
    (s.byteAt (s.index.toNat + row)).getLsbD (7 - col) = true ∧ i = r * 64 + (x0 + col) % 64

/-- Every piece of the state at its value of the table 10 R44; the model's own two fields apart. -/
structure State.hasResetValues (s : State) : Prop where
  regs : ∀ r, s.reg r = 0
  index : s.index = 0
  pc : s.pc.toNat = 512
  sp : s.sp = 0
  stack : ∀ k, s.slot k = 0
  dt : s.dt = 0
  st : s.st = 0
  fb : ∀ i, s.pixel i = false
  dirty : s.dirty = false
  key : s.key = none
  run : s.run = .running
  fault : s.fault = none
  font : ∀ i, i < 80 → s.byteAt i = Memory.font.getD i 0
  memory : ∀ a, 80 ≤ a → s.byteAt a = 0

end Sys2Proof.Machine

namespace Sys2Proof

open Sys2Proof.Machine

/-- The register indices 0 to `x`. -/
def nibblesUpTo (x : Nibble) : List Nibble := (List.range (x.toNat + 1)).map (BitVec.ofNat 4)

/-- The general-purpose registers an instruction may write: its destination, register 15 for the six flag writers
(10 R28), registers 0 to `X` for the block load (42 R131). -/
def Instr.mayWrite : Instr → List Nibble
  | .ldImm x _ | .addImm x _ | .ldReg x _ | .orReg x _ | .andReg x _ | .xorReg x _ | .rnd x _ => [x]
  | .addReg x _ | .subReg x _ | .shr x _ | .subnReg x _ | .shl x _ => [x, 15]
  | .drw _ _ _ => [15]
  | .ldVxDt x | .ldVxK x => [x]
  | .ldRegs x => nibblesUpTo x
  | .cls | .ret | .jp _ | .call _ | .seImm _ _ | .sneImm _ _ | .seReg _ _ _ | .sneReg _ _ _ => []
  | .ldI _ | .jpV0 _ | .skp _ | .sknp _ | .ldDtVx _ | .ldStVx _ | .addI _ | .ldF _ | .ldB _ | .stRegs _ => []

/-- The other pieces of the state an instruction may change in its execute part (10 R45). -/
def Instr.mayChange : Instr → List Part
  | .cls => [.fb, .dirty]
  | .drw _ _ _ => [.fb, .dirty, .fault]
  | .ret => [.pc, .stack, .fault]
  | .call _ => [.pc, .stack, .fault]
  | .jp _ | .jpV0 _ => [.pc]
  | .seImm _ _ | .sneImm _ _ | .seReg _ _ _ | .sneReg _ _ _ | .skp _ | .sknp _ => [.pc]
  | .ldImm _ _ | .addImm _ _ | .ldReg _ _ | .orReg _ _ | .andReg _ _ | .xorReg _ _ => []
  | .addReg _ _ | .subReg _ _ | .shr _ _ | .subnReg _ _ | .shl _ _ | .ldVxDt _ => []
  | .rnd _ _ => [.draws]
  | .ldI _ | .addI _ | .ldF _ => [.index]
  | .ldVxK _ => [.run]
  | .ldDtVx _ => [.dt]
  | .ldStVx _ => [.st]
  | .ldB _ | .stRegs _ => [.mem, .fault]
  | .ldRegs _ => [.fault]

end Sys2Proof
end

