-- ==== Sys2Proof/Certificates/Slice0/Obligations.lean ====
section
/-! DEFINITION. The statements for the provers: what spec/ says the instructions and the machine do. Numbers are
compared as numbers (`toNat`), memory byte by byte, the framebuffer pixel by pixel, the stack slot by slot. A statement
about an instruction also says which word it is (30 R85). -/

open Sys2Proof Sys2Proof.Machine

/-! ## Encoding -/

/-- 30 R74, R85: decoding the word of an instruction gives it back, for every operand. -/
def Obligations.DecodeOfEncode : Prop :=
  ∀ i : Instr, decodeWord (encode i) = .ok i

/-- 30 R74, R85: the instruction decoded from a word encodes to that word, so no bit of it is dropped, a don't-care
bit neither. -/
def Obligations.EncodeOfDecode : Prop :=
  ∀ (w : Word) (i : Instr), decodeWord w = .ok i → encode i = w

/-- 30 R85: a word decodes to an instruction of a row of the opcode map iff `w and mask = match`, and the rows are
pairwise disjoint. -/
def Obligations.DecodeFollowsOpcodeMap : Prop :=
  (∀ r ∈ opcodeRows, ∀ w : Word, w &&& r.mask = r.pattern ↔ ∃ i, decodeWord w = .ok i ∧ i.row = r) ∧
  opcodeRows.Pairwise fun p q => ∀ w : Word, ¬ (w &&& p.mask = p.pattern ∧ w &&& q.mask = q.pattern)

/-- 30 R80, R81, R82, R84: the words that are no instruction, family by family. That family 0 looks at all 12 low bits
is the spec's own decision D3. -/
def Obligations.IllegalWordsByFamily : Prop :=
  ∀ w : Word, (∃ e, decodeWord w = .error e) ↔
    (w.toNat / 4096 = 0 ∧ w.toNat ≠ 0x00E0 ∧ w.toNat ≠ 0x00EE) ∨
    (w.toNat / 4096 = 8 ∧ w.toNat % 16 ∈ [8, 9, 0xA, 0xB, 0xC, 0xD, 0xF]) ∨
    (w.toNat / 4096 = 0xE ∧ w.toNat % 256 ∉ [0x9E, 0xA1]) ∨
    (w.toNat / 4096 = 0xF ∧ w.toNat % 256 ∉ [0x07, 0x0A, 0x15, 0x18, 0x1E, 0x29, 0x33, 0x55, 0x65])

/-- 95 section 1.3 and vectors E1, E2, E7, E8, E9: words of the spec and what they are. -/
def Obligations.SpecWordsDecode : Prop :=
  decodeWord 0x6005 = .ok (.ldImm 0 0x05) ∧ decodeWord 0x6103 = .ok (.ldImm 1 0x03) ∧
  decodeWord 0x8014 = .ok (.addReg 0 1) ∧ decodeWord 0x2200 = .ok (.call 0x200) ∧
  decodeWord 0xD5A3 = .ok (.drw 5 0xA 3) ∧ decodeWord 0x5AB7 = .ok (.seReg 0xA 0xB 7) ∧
  decodeWord 0x9AB1 = .ok (.sneReg 0xA 0xB 1) ∧ decodeWord 0x00E0 = .ok .cls ∧ decodeWord 0x00EE = .ok .ret ∧
  decodeWord 0xF265 = .ok (.ldRegs 2) ∧ decodeWord 0xE19E = .ok (.skp 1) ∧ decodeWord 0xF40A = .ok (.ldVxK 4) ∧
  decodeWord 0x0000 = .error (.unknownInstruction 0x0000)

/-! ## The step, the fetch, the faults -/

/-- 41 R111: when the word at `PC` decodes to an instruction, the step is that instruction's meaning on the state whose
`PC` is advanced by 2, and nothing around it. -/
def Obligations.StepRunsDecodedInstruction : Prop :=
  ∀ (s : State) (i : Instr), s.ready → s.pc.toNat ≤ 4094 →
    decodeBytes [s.byteAt s.pc.toNat, s.byteAt (s.pc.toNat + 1)] = .ok (i, []) →
    step s = exec i { s with pc := s.pc + 2 }

/-- The whole of `step()` (41 section 1), case by case: a latched fault, a pending key wait, a fetch out of range, a
word that is no instruction, an instruction. The latch, the step of a wait and the fetch fault are the spec's own
decisions D22, D24, D13. -/
def Obligations.StepAlgorithm : Prop :=
  ∀ s : State,
    (∀ f, s.fault = some f → step s = .next s ∧ s.reportedFault = some f) ∧
    (∀ r, s.fault = none → s.run = .awaitingKey r → s.key = none → step s = .next s) ∧
    (∀ r k, s.fault = none → s.run = .awaitingKey r → s.key = some k →
      ∃ t, step s = .next t ∧ (t.reg r).toNat = k.toNat ∧ t.run = .running ∧ State.frame [.run] [r] s t) ∧
    (s.ready → 4094 < s.pc.toNat →
      step s = .next { s with fault := some (.memoryOutOfRange none s.pc (max s.pc.toNat 4096)) }) ∧
    (s.ready → s.pc.toNat ≤ 4094 → (∀ r ∈ opcodeRows, s.wordAt s.pc.toNat &&& r.mask ≠ r.pattern) →
      step s = .next { s with
        pc := s.pc + 2
        fault := some (.unknownInstruction (s.wordAt s.pc.toNat) s.pc) }) ∧
    (∀ i, s.ready → s.pc.toNat ≤ 4094 → decodeWord (s.wordAt s.pc.toNat) = .ok i →
      step s = exec i { s with pc := s.pc + 2 })

/-- 20 R56: the fetched word has the byte at the lower address as its high byte, and the bytes 60 05 at 512 are
`LD V0, 5`. -/
def Obligations.FetchIsBigEndian : Prop :=
  (∀ (s : State) (a : Nat), (s.wordAt a).toNat = (s.byteAt a).toNat * 256 + (s.byteAt (a + 1)).toNat) ∧
  ∀ s : State, s.ready → s.pc.toNat = 512 → s.byteAt 512 = 0x60 → s.byteAt 513 = 0x05 →
    s.wordAt 512 = 0x6005 ∧ step s = exec (.ldImm 0 5) { s with pc := s.pc + 2 }

/-- 70 R185, 60 R163: a step always answers a next state: the machine never stops and never refuses to step. -/
def Obligations.StepAlwaysAnswersNext : Prop :=
  ∀ s : State, ∃ t, step s = .next t

/-- 60 section 4: a fault that a step latches is precise: nothing changes but `FAULT` and `PC`, which is advanced by 2,
or not even that for a fetch fault; the latch holds the fetch address and, but for a fetch fault, the fetched word. The
latch and where `PC` stays are the spec's own decisions D22, D37. -/
def Obligations.FaultsArePrecise : Prop :=
  ∀ (s t : State) (f : Fault), step s = .next t → s.fault = none → t.fault = some f →
    s.run = .running ∧ f.pcFetch = s.pc ∧
    ((4094 < s.pc.toNat ∧ f.word = none ∧ t = { s with fault := some f }) ∨
     (s.pc.toNat ≤ 4094 ∧ f.word = some (s.wordAt s.pc.toNat) ∧ t = { s with pc := s.pc + 2, fault := some f }))

/-- 60 R163, R165: a latched fault is never replaced: no step changes anything, a refused load is reported and leaves
the state as it was, and every event but `reset()` and a load that fits keeps the latch. That there is a latch is the
spec's own decision D22, that a refused load changes nothing is its decision D31; the refusal is log entry 13. -/
def Obligations.FirstFaultStays : Prop :=
  ∀ (s : State) (f : Fault), s.fault = some f →
    step s = .next s ∧
    (∀ bs : List Byte, 3584 < bs.length →
      handle (.load bs) s = .refused (.programTooLarge bs.length 3584) ∧ s.after (.load bs) = s) ∧
    ∀ e : Event, e ≠ .reset → (∀ bs : List Byte, bs.length ≤ 3584 → e ≠ .load bs) → (s.after e).fault = some f

/-! ## Reset, load and the other events -/

/-- 70 section 1: the reset state and the state after `reset()`, whatever the state before. That `DIRTY` is 0 is the
spec's own decision D18 (log entry 4), the font bytes are its default table (log entry 3), and the model's own fields
keep their values through `reset()` (log entries 1, 2). -/
def Obligations.ResetValues : Prop :=
  State.reset.hasResetValues ∧
  ∀ s : State, ∃ t, handle .reset s = .next t ∧ t.hasResetValues ∧ t.draws = s.draws ∧ t.build = s.build

/-- 70 R180: a load that fits resets the machine and copies the image to address 512 and up. The reset state it starts
from has `DIRTY` 0 by the spec's own decision D18 (log entry 4) and the font bytes of its default table (log entry 3). -/
def Obligations.LoadPlacesImage : Prop :=
  ∀ (s : State) (bytes : List Byte), bytes.length ≤ 3584 →
    ∃ t u, handle (.load bytes) s = .next t ∧ handle .reset s = .next u ∧ u.hasResetValues ∧
      State.frame [.mem] [] u t ∧
      (∀ i, i < bytes.length → t.byteAt (512 + i) = bytes.getD i 0) ∧
      ∀ a, a < 512 ∨ 512 + bytes.length ≤ a → t.byteAt a = u.byteAt a

/-- 70 section 1: a load that does not fit is refused with `ProgramTooLarge` and changes nothing. That the length is
checked first is the spec's own decision D31. -/
def Obligations.LoadTooLargeChangesNothing : Prop :=
  ∀ (s : State) (bytes : List Byte), 3584 < bytes.length →
    handle (.load bytes) s = .refused (.programTooLarge bytes.length 3584) ∧ s.after (.load bytes) = s

/-- 44 R149: a tick takes each timer down by 1 if it is above 0, and changes nothing else, in every state. -/
def Obligations.TickCountsDown : Prop :=
  ∀ s : State, ∃ t, handle .tick s = .next t ∧ t.dt.toNat = s.dt.toNat - 1 ∧ t.st.toNat = s.st.toNat - 1 ∧
    State.frame [.dt, .st] [] s t

/-- 44 R151: `set_key(k)` sets the key and nothing else; it does not complete a pending wait, the next step does. -/
def Obligations.SetKeyOnlySetsKey : Prop :=
  ∀ (s : State) (k : Option Nibble), ∃ t, handle (.setKey k) s = .next t ∧ t.key = k ∧ State.frame [.key] [] s t ∧
    ∀ r n, s.fault = none → s.run = .awaitingKey r → k = some n →
      ∃ u, step t = .next u ∧ (u.reg r).toNat = n.toNat ∧ u.run = .running

/-- 60 R171, 10 R38: the host's side of the framebuffer: `clear_dirty()` clears the flag alone, the reads change
nothing, and `read_fb(i)` answers 1 exactly for a pixel that is on. -/
def Obligations.HostDisplaySurface : Prop :=
  ∀ s : State,
    (∃ t, handle .clearDirty s = .next t ∧ t.dirty = false ∧ State.frame [.dirty] [] s t) ∧
    handle .isDirty s = .next s ∧ (s.isDirty = true ↔ s.dirty = true) ∧
    ∀ i : Fin 2048, handle (.readFb i) s = .next s ∧
      (s.readFb i).toNat = if s.pixel i.val = true then 1 else 0

/-! ## Invariants -/

/-- The invariant holds at reset. -/
def Obligations.InvariantAtReset : Prop :=
  State.reset.Inv

/-- 10 R35, 41 R124, 60 R164: every step keeps the invariant, from every state that has it. -/
def Obligations.StepKeepsInvariant : Prop :=
  ∀ s t : State, s.Inv → step s = .next t → t.Inv

/-- 00 R22, R23: every event keeps the invariant, and so does every sequence of events. -/
def Obligations.EventsKeepInvariant : Prop :=
  (∀ (s : State) (e : Event), s.Inv → (s.after e).Inv) ∧
  ∀ (s : State) (es : List Event), s.Inv → (runEvents s es).Inv

/-! ## ALU and register instructions -/

/-- 40 R94: `LD Vx, byte`. -/
def Obligations.LoadImmediate : Prop :=
  ∀ (x : Nibble) (nn : Byte) (s : State), decodeWord (0x6#4 ++ x ++ nn) = .ok (.ldImm x nn) ∧
    ∃ t, exec (.ldImm x nn) s = .next t ∧ t.reg x = nn ∧ State.frame [] [x] s t

/-- 40 R95: `ADD Vx, byte`, with no flag. -/
def Obligations.AddImmediate : Prop :=
  ∀ (x : Nibble) (nn : Byte) (s : State), decodeWord (0x7#4 ++ x ++ nn) = .ok (.addImm x nn) ∧
    ∃ t, exec (.addImm x nn) s = .next t ∧ (t.reg x).toNat = ((s.reg x).toNat + nn.toNat) % 256 ∧
      State.frame [] [x] s t

/-- 40 R96: `LD Vx, Vy`. -/
def Obligations.CopyRegister : Prop :=
  ∀ (x y : Nibble) (s : State), decodeWord (0x8#4 ++ x ++ y ++ 0x0#4) = .ok (.ldReg x y) ∧
    ∃ t, exec (.ldReg x y) s = .next t ∧ t.reg x = s.reg y ∧ State.frame [] [x] s t

/-- 40 R97, R98, R99: `OR`, `AND`, `XOR`, bit by bit. That `VF` is left alone is the spec's own decision D8. -/
def Obligations.LogicRegisters : Prop :=
  ∀ (x y : Nibble) (s : State),
    (decodeWord (0x8#4 ++ x ++ y ++ 0x1#4) = .ok (.orReg x y) ∧
      ∃ t, exec (.orReg x y) s = .next t ∧ State.frame [] [x] s t ∧
        ∀ b, b < 8 → (t.reg x).getLsbD b = ((s.reg x).getLsbD b || (s.reg y).getLsbD b)) ∧
    (decodeWord (0x8#4 ++ x ++ y ++ 0x2#4) = .ok (.andReg x y) ∧
      ∃ t, exec (.andReg x y) s = .next t ∧ State.frame [] [x] s t ∧
        ∀ b, b < 8 → (t.reg x).getLsbD b = ((s.reg x).getLsbD b && (s.reg y).getLsbD b)) ∧
    (decodeWord (0x8#4 ++ x ++ y ++ 0x3#4) = .ok (.xorReg x y) ∧
      ∃ t, exec (.xorReg x y) s = .next t ∧ State.frame [] [x] s t ∧
        ∀ b, b < 8 → (t.reg x).getLsbD b = ((s.reg x).getLsbD b ^^ (s.reg y).getLsbD b))

/-- 40 R100: `ADD Vx, Vy`: the sum modulo 256 and the carry; with X = 15 the sum remains. -/
def Obligations.AddRegisters : Prop :=
  ∀ (x y : Nibble) (s : State), decodeWord (0x8#4 ++ x ++ y ++ 0x4#4) = .ok (.addReg x y) ∧
    ∃ t, exec (.addReg x y) s = .next t ∧
      (t.reg x).toNat = ((s.reg x).toNat + (s.reg y).toNat) % 256 ∧
      (x ≠ 15 → (t.reg 15).toNat = if 255 < (s.reg x).toNat + (s.reg y).toNat then 1 else 0) ∧
      State.frame [] [x, 15] s t

/-- 40 R101, R103: `SUB` and `SUBN`: the difference modulo 256 and the strict comparison; with X = 15 the difference
remains. -/
def Obligations.SubtractRegisters : Prop :=
  ∀ (x y : Nibble) (s : State),
    (decodeWord (0x8#4 ++ x ++ y ++ 0x5#4) = .ok (.subReg x y) ∧
      ∃ t, exec (.subReg x y) s = .next t ∧
        ((t.reg x).toNat : Int) = ((s.reg x).toNat - (s.reg y).toNat : Int) % 256 ∧
        (x ≠ 15 → (t.reg 15).toNat = if (s.reg y).toNat < (s.reg x).toNat then 1 else 0) ∧
        State.frame [] [x, 15] s t) ∧
    (decodeWord (0x8#4 ++ x ++ y ++ 0x7#4) = .ok (.subnReg x y) ∧
      ∃ t, exec (.subnReg x y) s = .next t ∧
        ((t.reg x).toNat : Int) = ((s.reg y).toNat - (s.reg x).toNat : Int) % 256 ∧
        (x ≠ 15 → (t.reg 15).toNat = if (s.reg x).toNat < (s.reg y).toNat then 1 else 0) ∧
        State.frame [] [x, 15] s t)

/-- 40 R102, R104: `SHR Vx` and `SHL Vx`: register X by one bit, the bit shifted out in `VF`; with X = 15 the result
remains. That the `Y` field is ignored is the spec's own decision D7. -/
def Obligations.ShiftRegister : Prop :=
  ∀ (x y : Nibble) (s : State),
    (decodeWord (0x8#4 ++ x ++ y ++ 0x6#4) = .ok (.shr x y) ∧
      ∃ t, exec (.shr x y) s = .next t ∧ (t.reg x).toNat = (s.reg x).toNat / 2 ∧
        (x ≠ 15 → (t.reg 15).toNat = (s.reg x).toNat % 2) ∧ State.frame [] [x, 15] s t) ∧
    (decodeWord (0x8#4 ++ x ++ y ++ 0xE#4) = .ok (.shl x y) ∧
      ∃ t, exec (.shl x y) s = .next t ∧ (t.reg x).toNat = (s.reg x).toNat * 2 % 256 ∧
        (x ≠ 15 → (t.reg 15).toNat = (s.reg x).toNat / 128) ∧ State.frame [] [x, 15] s t)

/-- 40 R105, R109: `RND Vx, byte`: the next random byte ANDed with the mask, and the draw is used up. The byte is the
free value of log entry 1: the statement holds whatever the byte is. -/
def Obligations.RandomByteMasked : Prop :=
  ∀ (x : Nibble) (nn : Byte) (s : State), decodeWord (0xC#4 ++ x ++ nn) = .ok (.rnd x nn) ∧
    ∃ t, exec (.rnd x nn) s = .next t ∧ t.reg x = Config.drawByte s.draws &&& nn ∧
      (∀ b, nn.getLsbD b = false → (t.reg x).getLsbD b = false) ∧ t.draws = s.draws + 1 ∧
      State.frame [.draws] [x] s t

/-! ## Control transfer -/

/-- 41 R112: `JP addr`. -/
def Obligations.JumpAbsolute : Prop :=
  ∀ (nnn : Addr12) (s : State), decodeWord (0x1#4 ++ nnn) = .ok (.jp nnn) ∧
    ∃ t, exec (.jp nnn) s = .next t ∧ t.pc.toNat = nnn.toNat ∧ State.frame [.pc] [] s t

/-- 41 R113, 60 R157, R163: `CALL addr`: pushes `PC` and jumps; with a full stack it raises `StackOverflow` and changes
nothing else. How the record's word and fetch address are written is log entry 11. -/
def Obligations.CallPushesReturnAddress : Prop :=
  ∀ (nnn : Addr12) (s : State), decodeWord (0x2#4 ++ nnn) = .ok (.call nnn) ∧
    (s.sp < s.build.stackCapacity →
      ∃ t, exec (.call nnn) s = .next t ∧ t.slot s.sp = s.pc ∧ t.sp = s.sp + 1 ∧ t.pc.toNat = nnn.toNat ∧
        (∀ k, k ≠ s.sp → t.slot k = s.slot k) ∧ State.frame [.pc, .stack] [] s t) ∧
    (s.sp = s.build.stackCapacity →
      exec (.call nnn) s = .next { s with fault := some (.stackOverflow (0x2#4 ++ nnn) (s.pc - 2)) })

/-- 41 section 1: `JP V0, addr`. The operation, and that its sum is not reduced to 12 bits, is the spec's own decision
D35. -/
def Obligations.JumpWithOffset : Prop :=
  ∀ (nnn : Addr12) (s : State), decodeWord (0xB#4 ++ nnn) = .ok (.jpV0 nnn) ∧
    ∃ t, exec (.jpV0 nnn) s = .next t ∧ t.pc.toNat = nnn.toNat + (s.reg 0).toNat ∧ State.frame [.pc] [] s t

/-- 41 R115, 60 R158, R163: `RET`: pops into `PC`, the slot keeps its value; with an empty stack it raises
`StackUnderflow` and changes nothing else. How the record's word and fetch address are written is log entry 11. -/
def Obligations.ReturnPopsAddress : Prop :=
  ∀ s : State, decodeWord 0x00EE = .ok .ret ∧
    (0 < s.sp → ∃ t, exec .ret s = .next t ∧ t.sp + 1 = s.sp ∧ t.pc = s.slot t.sp ∧
      (∀ k, t.slot k = s.slot k) ∧ State.frame [.pc, .stack] [] s t) ∧
    (s.sp = 0 → exec .ret s = .next { s with fault := some (.stackUnderflow 0x00EE (s.pc - 2)) })

/-- 41 R116, R117, R122: `SE` and `SNE` with an immediate. -/
def Obligations.SkipOnImmediate : Prop :=
  ∀ (x : Nibble) (nn : Byte) (s : State),
    (decodeWord (0x3#4 ++ x ++ nn) = .ok (.seImm x nn) ∧
      ∃ t, exec (.seImm x nn) s = .next t ∧ State.frame [.pc] [] s t ∧
        t.pc.toNat = if s.reg x = nn then (s.pc.toNat + 2) % 65536 else s.pc.toNat) ∧
    (decodeWord (0x4#4 ++ x ++ nn) = .ok (.sneImm x nn) ∧
      ∃ t, exec (.sneImm x nn) s = .next t ∧ State.frame [.pc] [] s t ∧
        t.pc.toNat = if s.reg x ≠ nn then (s.pc.toNat + 2) % 65536 else s.pc.toNat)

/-- 41 R118, R119: `SE` and `SNE` with two registers, whatever the low nibble `z` is. -/
def Obligations.SkipOnRegisters : Prop :=
  ∀ (x y z : Nibble) (s : State),
    (decodeWord (0x5#4 ++ x ++ y ++ z) = .ok (.seReg x y z) ∧
      ∃ t, exec (.seReg x y z) s = .next t ∧ State.frame [.pc] [] s t ∧
        t.pc.toNat = if s.reg x = s.reg y then (s.pc.toNat + 2) % 65536 else s.pc.toNat) ∧
    (decodeWord (0x9#4 ++ x ++ y ++ z) = .ok (.sneReg x y z) ∧
      ∃ t, exec (.sneReg x y z) s = .next t ∧ State.frame [.pc] [] s t ∧
        t.pc.toNat = if s.reg x ≠ s.reg y then (s.pc.toNat + 2) % 65536 else s.pc.toNat)

/-- 41 R121, section 2: `SKP` and `SKNP`: `none` never equals, and the two are each other's negation. That the whole
register is compared with the key is the spec's own decision D25. -/
def Obligations.SkipOnKey : Prop :=
  ∀ (x : Nibble) (s : State),
    (decodeWord (0xE#4 ++ x ++ 0x9E#8) = .ok (.skp x) ∧
      ∃ t, exec (.skp x) s = .next t ∧ State.frame [.pc] [] s t ∧
        t.pc.toNat = if s.key.map BitVec.toNat = some (s.reg x).toNat then (s.pc.toNat + 2) % 65536
          else s.pc.toNat) ∧
    (decodeWord (0xE#4 ++ x ++ 0xA1#8) = .ok (.sknp x) ∧
      ∃ t, exec (.sknp x) s = .next t ∧ State.frame [.pc] [] s t ∧
        t.pc.toNat = if s.key.map BitVec.toNat = some (s.reg x).toNat then s.pc.toNat
          else (s.pc.toNat + 2) % 65536)

/-- 95 Q5, 41 R115: a call and an immediate return, as two steps, bring `PC` to the instruction after the call and
`SP` back; no slot but the pushed one has changed. -/
def Obligations.CallThenReturnResumes : Prop :=
  ∀ (s : State) (nnn : Addr12), s.ready → s.pc.toNat ≤ 4094 → nnn.toNat ≤ 4094 →
    s.wordAt s.pc.toNat = 0x2#4 ++ nnn → s.wordAt nnn.toNat = 0x00EE → s.sp < s.build.stackCapacity →
    ∃ t u, step s = .next t ∧ step t = .next u ∧ t.pc.toNat = nnn.toNat ∧ u.pc.toNat = s.pc.toNat + 2 ∧
      u.sp = s.sp ∧ (∀ k, k ≠ s.sp → u.slot k = s.slot k) ∧ State.frame [.pc, .stack] [] s u

/-- 70 R185, 41 R112: at a jump to itself every further step leaves the whole state unchanged. -/
def Obligations.SelfJumpIsFixedPoint : Prop :=
  ∀ s : State, s.goodEnd → step s = .next s

/-- 10 section 5: a step moves `SP` by at most 1, and no instruction but `CALL` and `RET` moves it or writes a slot.
That `SP` counts the occupied slots is the spec's own decision D20. -/
def Obligations.StackPointerMovesByOne : Prop :=
  (∀ s t : State, step s = .next t → t.sp = s.sp ∨ t.sp = s.sp + 1 ∨ t.sp + 1 = s.sp) ∧
  ∀ (i : Instr) (s t : State), exec i s = .next t → (∀ nnn, i ≠ .call nnn) → i ≠ .ret →
    t.sp = s.sp ∧ ∀ k, t.slot k = s.slot k

/-! ## Index register and memory -/

/-- 42 R126: `LD I, addr`. -/
def Obligations.LoadIndex : Prop :=
  ∀ (nnn : Addr12) (s : State), decodeWord (0xA#4 ++ nnn) = .ok (.ldI nnn) ∧
    ∃ t, exec (.ldI nnn) s = .next t ∧ t.index.toNat = nnn.toNat ∧ State.frame [.index] [] s t

/-- 42 section 2: `ADD I, Vx`. That it is modulo 65536 and leaves `VF` alone is the spec's own decision D9. -/
def Obligations.AddToIndex : Prop :=
  ∀ (x : Nibble) (s : State), decodeWord (0xF#4 ++ x ++ 0x1E#8) = .ok (.addI x) ∧
    ∃ t, exec (.addI x) s = .next t ∧ t.index.toNat = (s.index.toNat + (s.reg x).toNat) % 65536 ∧
      State.frame [.index] [] s t

/-- 42 section 2: `LD F, Vx`: five times the low nibble. `FONT_BASE` = 0 and the low nibble are the spec's own decision
D11. -/
def Obligations.LoadGlyphAddress : Prop :=
  ∀ (x : Nibble) (s : State), decodeWord (0xF#4 ++ x ++ 0x29#8) = .ok (.ldF x) ∧
    ∃ t, exec (.ldF x) s = .next t ∧ t.index.toNat = 5 * ((s.reg x).toNat % 16) ∧ State.frame [.index] [] s t

/-- 42 R129: `LD B, Vx`: the three digits at `I`, `I + 1`, `I + 2`, every other byte as before; out of range it raises
`MemoryOutOfRange` and changes nothing else. The fault is the spec's own decision D13 (log entry 7); how the record's
word and fetch address are written is log entry 11. -/
def Obligations.StoreDecimalDigits : Prop :=
  ∀ (x : Nibble) (s : State), decodeWord (0xF#4 ++ x ++ 0x33#8) = .ok (.ldB x) ∧
    (s.index.toNat + 2 ≤ 4095 →
      ∃ t, exec (.ldB x) s = .next t ∧ (t.byteAt s.index.toNat).toNat = (s.reg x).toNat / 100 ∧
        (t.byteAt (s.index.toNat + 1)).toNat = (s.reg x).toNat / 10 % 10 ∧
        (t.byteAt (s.index.toNat + 2)).toNat = (s.reg x).toNat % 10 ∧
        (∀ a, a < s.index.toNat ∨ s.index.toNat + 2 < a → t.byteAt a = s.byteAt a) ∧
        State.frame [.mem] [] s t) ∧
    (4095 < s.index.toNat + 2 →
      exec (.ldB x) s = .next { s with
        fault := some (.memoryOutOfRange (some (0xF#4 ++ x ++ 0x33#8)) (s.pc - 2) (max s.index.toNat 4096)) })

/-- 42 R130: `LD [I], Vx`: registers 0 to X at `I` to `I + X`, every other byte as before; out of range it raises
`MemoryOutOfRange` and changes nothing else. The fault is the spec's own decision D13 (log entry 7); how the record's
word and fetch address are written is log entry 11. -/
def Obligations.StoreRegisterBlock : Prop :=
  ∀ (x : Nibble) (s : State), decodeWord (0xF#4 ++ x ++ 0x55#8) = .ok (.stRegs x) ∧
    (s.index.toNat + x.toNat ≤ 4095 →
      ∃ t, exec (.stRegs x) s = .next t ∧
        (∀ r : Nibble, r.toNat ≤ x.toNat → t.byteAt (s.index.toNat + r.toNat) = s.reg r) ∧
        (∀ a, a < s.index.toNat ∨ s.index.toNat + x.toNat < a → t.byteAt a = s.byteAt a) ∧
        State.frame [.mem] [] s t) ∧
    (4095 < s.index.toNat + x.toNat →
      exec (.stRegs x) s = .next { s with
        fault := some (.memoryOutOfRange (some (0xF#4 ++ x ++ 0x55#8)) (s.pc - 2) (max s.index.toNat 4096)) })

/-- 42 R131: `LD Vx, [I]`: registers 0 to X from `I` to `I + X`, the registers above X as before; out of range it
raises `MemoryOutOfRange` and changes nothing else. The fault is the spec's own decision D13 (log entry 7); how the
record's word and fetch address are written is log entry 11. -/
def Obligations.LoadRegisterBlock : Prop :=
  ∀ (x : Nibble) (s : State), decodeWord (0xF#4 ++ x ++ 0x65#8) = .ok (.ldRegs x) ∧
    (s.index.toNat + x.toNat ≤ 4095 →
      ∃ t, exec (.ldRegs x) s = .next t ∧
        (∀ r : Nibble, r.toNat ≤ x.toNat → t.reg r = s.byteAt (s.index.toNat + r.toNat)) ∧
        (∀ r : Nibble, x.toNat < r.toNat → t.reg r = s.reg r) ∧
        State.frame [] (nibblesUpTo x) s t) ∧
    (4095 < s.index.toNat + x.toNat →
      exec (.ldRegs x) s = .next { s with
        fault := some (.memoryOutOfRange (some (0xF#4 ++ x ++ 0x65#8)) (s.pc - 2) (max s.index.toNat 4096)) })

/-- 42 R131: a block store followed by a block load with the same `I` and X restores the registers, whatever happened
to them in between, as long as memory did not change. -/
def Obligations.BlockStoreThenLoadRestores : Prop :=
  ∀ (x : Nibble) (s t u v : State), s.index.toNat + x.toNat ≤ 4095 → exec (.stRegs x) s = .next t →
    u.index = s.index → (∀ a, u.byteAt a = t.byteAt a) → exec (.ldRegs x) u = .next v →
    ∀ r : Nibble, r.toNat ≤ x.toNat → v.reg r = s.reg r

/-- 42 section 3: no instruction but ANNN, FX1E and FX29 changes `I`. That the block and BCD instructions do not is the
spec's own decision D10. -/
def Obligations.IndexChangedByThreeOnly : Prop :=
  ∀ (i : Instr) (s t : State), exec i s = .next t → (∀ nnn, i ≠ .ldI nnn) → (∀ x, i ≠ .addI x) →
    (∀ x, i ≠ .ldF x) → t.index = s.index

/-- 20 section 8: the fetch sees a stored instruction at once: after a block store whose bytes cover the fetch address,
the next step runs the word that was stored, not the one that was there. This is the spec's own inference (D36). -/
def Obligations.FetchSeesBlockStore : Prop :=
  ∀ (x r : Nibble) (s t : State) (i : Instr), s.ready → s.index.toNat + x.toNat ≤ 4095 →
    exec (.stRegs x) s = .next t → r.toNat + 1 ≤ x.toNat → s.pc.toNat = s.index.toNat + r.toNat →
    decodeBytes [s.reg r, s.reg (r + 1)] = .ok (i, []) → step t = exec i { t with pc := t.pc + 2 }

/-! ## Framebuffer -/

/-- 43 section 2: `CLS`. That it always sets `DIRTY` is the spec's own decision D17. -/
def Obligations.ClearScreen : Prop :=
  ∀ s : State, decodeWord 0x00E0 = .ok .cls ∧
    ∃ t, exec .cls s = .next t ∧ (∀ i, t.pixel i = false) ∧ t.dirty = true ∧ State.frame [.fb, .dirty] [] s t

/-- 43 R135, R140: `DRW Vx, Vy, nibble`, under every row policy: the memory check first, the row check second, each
with nothing else changed; else exactly the pixels the sprite names are turned over, `VF` is 1 iff one of them was on,
and the framebuffer is dirty. The memory fault is the spec's own decision D13, the row policies and the row fault D14,
bit 7 leftmost D15 (log entry 7); how the records' word and fetch address are written is log entry 11. -/
def Obligations.DrawSprite : Prop :=
  ∀ (x y n : Nibble) (s : State), decodeWord (0xD#4 ++ x ++ y ++ n) = .ok (.drw x y n) ∧
    (0 < n.toNat → 4095 < s.index.toNat + n.toNat - 1 →
      exec (.drw x y n) s = .next { s with
        fault := some (.memoryOutOfRange (some (0xD#4 ++ x ++ y ++ n)) (s.pc - 2) (max s.index.toNat 4096)) }) ∧
    (0 < n.toNat → s.index.toNat + n.toNat - 1 ≤ 4095 → s.build.rowPolicy = .fault →
      31 < (s.reg y).toNat + n.toNat - 1 →
      exec (.drw x y n) s = .next { s with
        fault := some (.drawOutOfRange (0xD#4 ++ x ++ y ++ n) (s.pc - 2) ((s.reg y).toNat + n.toNat - 1)) }) ∧
    (n.toNat = 0 ∨ s.index.toNat + n.toNat - 1 ≤ 4095 →
      n.toNat = 0 ∨ s.build.rowPolicy ≠ .fault ∨ (s.reg y).toNat + n.toNat - 1 ≤ 31 →
      ∃ t, exec (.drw x y n) s = .next t ∧
        (∀ i, s.inSprite (s.reg x).toNat (s.reg y).toNat n.toNat i → t.pixel i = !s.pixel i) ∧
        (∀ i, ¬ s.inSprite (s.reg x).toNat (s.reg y).toNat n.toNat i → t.pixel i = s.pixel i) ∧
        ((∃ i, s.inSprite (s.reg x).toNat (s.reg y).toNat n.toNat i ∧ s.pixel i = true) → t.reg 15 = 1) ∧
        ((∀ i, s.inSprite (s.reg x).toNat (s.reg y).toNat n.toNat i → s.pixel i = false) → t.reg 15 = 0) ∧
        t.dirty = true ∧ State.frame [.fb, .dirty] [15] s t)

/-- 43 section 3, 95 Q6: the second of two draws of the same sprite at the same place restores the framebuffer and
reports a collision iff the first turned a pixel on (the spec's own inference from its draw rule). -/
def Obligations.DrawTwiceRestores : Prop :=
  ∀ (x y x' y' n : Nibble) (s t u v : State),
    exec (.drw x y n) s = .next t → t.fault = none → exec (.drw x' y' n) u = .next v → v.fault = none →
    (∀ i, u.pixel i = t.pixel i) → u.build = s.build → u.reg x' = s.reg x → u.reg y' = s.reg y →
    (∀ row, row < n.toNat → u.byteAt (u.index.toNat + row) = s.byteAt (s.index.toNat + row)) →
    (∀ i, v.pixel i = s.pixel i) ∧
    (v.reg 15 = 1 ↔ ∃ i, s.inSprite (s.reg x).toNat (s.reg y).toNat n.toNat i ∧ s.pixel i = false)

/-- 43 section 3, 00 section 4: a draw none of whose rows passes row 31 is the same under every row policy (the
policies are the spec's own decision D14). -/
def Obligations.RowPoliciesAgreeOnScreen : Prop :=
  ∀ (x y n : Nibble) (s t : State) (p : RowPolicy), n.toNat = 0 ∨ (s.reg y).toNat + n.toNat ≤ 32 →
    exec (.drw x y n) s = .next t →
    exec (.drw x y n) { s with build := { s.build with rowPolicy := p } } =
      .next { t with build := { t.build with rowPolicy := p } }

/-! ## Timers and keys -/

/-- 44 R143, R144, R145: the timer instructions move a byte and do nothing else. -/
def Obligations.TimerMoves : Prop :=
  ∀ (x : Nibble) (s : State),
    (decodeWord (0xF#4 ++ x ++ 0x07#8) = .ok (.ldVxDt x) ∧
      ∃ t, exec (.ldVxDt x) s = .next t ∧ t.reg x = s.dt ∧ State.frame [] [x] s t) ∧
    (decodeWord (0xF#4 ++ x ++ 0x15#8) = .ok (.ldDtVx x) ∧
      ∃ t, exec (.ldDtVx x) s = .next t ∧ t.dt = s.reg x ∧ State.frame [.dt] [] s t) ∧
    (decodeWord (0xF#4 ++ x ++ 0x18#8) = .ok (.ldStVx x) ∧
      ∃ t, exec (.ldStVx x) s = .next t ∧ t.st = s.reg x ∧ State.frame [.st] [] s t)

/-- 44 section 3: `LD Vx, K`: a key that is there goes to register X at once (the spec's own decision D24), else the
machine awaits one for X. -/
def Obligations.KeyWaitInstruction : Prop :=
  ∀ (x : Nibble) (s : State), decodeWord (0xF#4 ++ x ++ 0x0A#8) = .ok (.ldVxK x) ∧
    (∀ k, s.key = some k →
      ∃ t, exec (.ldVxK x) s = .next t ∧ (t.reg x).toNat = k.toNat ∧ State.frame [] [x] s t) ∧
    (s.key = none →
      ∃ t, exec (.ldVxK x) s = .next t ∧ t.run = .awaitingKey x ∧ State.frame [.run] [] s t)

/-- 44 R148, R150, R152: a pending key wait lasts through any sequence of steps, ticks, reads and `clear_dirty()`
while no key is there, and changes nothing but the timers and the dirty flag; a key that is withdrawn before a step is
lost. -/
def Obligations.KeyWaitPersists : Prop :=
  ∀ (s : State) (r : Nibble), s.fault = none → s.run = .awaitingKey r → s.key = none →
    (∀ es : List Event,
      (∀ e ∈ es, e ≠ .reset ∧ (∀ bs : List Byte, e ≠ .load bs) ∧ ∀ k, e ≠ .setKey k) →
      State.frame [.dt, .st, .dirty] [] s (runEvents s es)) ∧
    ∀ k : Nibble, runEvents s [.setKey (some k), .setKey none, .step] = s

/-! ## The whole machine -/

/-- 10 R45, R28, R36, R38: no instruction changes more than its footprint: the registers it may write and the pieces
it may change, every other register, piece and byte as before. -/
def Obligations.InstructionFootprint : Prop :=
  ∀ (i : Instr) (s t : State), exec i s = .next t → State.frame i.mayChange i.mayWrite s t

/-- 44 R153, 10 R38: nothing depends on the sound timer or the dirty flag: two states that differ only in them
differ only in them after any event. -/
def Obligations.SoundTimerAndDirtyUnobserved : Prop :=
  ∀ (s : State) (e : Event) (v : Byte) (b : Bool), ∃ (v' : Byte) (b' : Bool),
    ({ s with st := v, dirty := b } : State).after e = { s.after e with st := v', dirty := b' }

/-- 40 R109, 70 R195: the draws are the only thing a step takes from outside the state: an instruction other than
`RND` neither reads nor moves the draw counter. -/
def Obligations.OnlyRandomUsesDraws : Prop :=
  ∀ (i : Instr) (s t : State) (d : Nat), exec i s = .next t → (∀ x nn, i ≠ .rnd x nn) →
    exec i { s with draws := d } = .next { t with draws := d }
end

