-- ==== Sys2Proof/Laws/Encoding.lean ====
section
/-! SUPPORT. The fields of a word as numbers, the formats as numbers, each format read back field by field, the
masks of the opcode map as conditions on fields: the lemmas by which encoding and decoding are compared. -/

namespace Sys2Proof.Laws

/-! The fields of a word as numbers (30 R74). -/

theorem opField_toNat (w : Word) : (opField w).toNat = w.toNat / 4096 := by
  simp [opField, Nat.shiftRight_eq_div_pow]; omega

theorem xField_toNat (w : Word) : (xField w).toNat = w.toNat / 256 % 16 := by
  simp [xField, Nat.shiftRight_eq_div_pow]

theorem yField_toNat (w : Word) : (yField w).toNat = w.toNat / 16 % 16 := by
  simp [yField, Nat.shiftRight_eq_div_pow]

theorem nField_toNat (w : Word) : (nField w).toNat = w.toNat % 16 := by
  simp [nField]

theorem nnField_toNat (w : Word) : (nnField w).toNat = w.toNat % 256 := by
  simp [nnField]

theorem nnnField_toNat (w : Word) : (nnnField w).toNat = w.toNat % 4096 := by
  simp [nnnField]

/-- The number of a concatenation, as place values. -/
theorem append_toNat {m n : Nat} (a : BitVec m) (b : BitVec n) : (a ++ b).toNat = a.toNat * 2 ^ n + b.toNat := by
  rw [BitVec.toNat_append, Nat.shiftLeft_eq, Nat.mul_comm, ← Nat.two_pow_add_eq_or_of_lt b.isLt]

/-! The formats as numbers (30 R75). -/

theorem formatA_toNat (op : Nibble) (nnn : Addr12) : (formatA op nnn).toNat = op.toNat * 4096 + nnn.toNat :=
  append_toNat op nnn

theorem formatXI_toNat (op x : Nibble) (nn : Byte) :
    (formatXI op x nn).toNat = op.toNat * 4096 + x.toNat * 256 + nn.toNat := by
  have h := append_toNat op (x ++ nn)
  rw [append_toNat x nn] at h
  exact h.trans (by omega)

theorem formatXYN_toNat (op x y n : Nibble) :
    (formatXYN op x y n).toNat = op.toNat * 4096 + x.toNat * 256 + y.toNat * 16 + n.toNat := by
  have h := append_toNat op (x ++ (y ++ n))
  rw [append_toNat x (y ++ n), append_toNat y n] at h
  exact h.trans (by omega)

theorem wordOfBytes_toNat (hi lo : Byte) : (wordOfBytes hi lo).toNat = hi.toNat * 256 + lo.toNat :=
  append_toNat hi lo

/-! A word written out as the concatenation of its fields is its format. -/

theorem concat_A (op : Nibble) (nnn : Addr12) : (op ++ nnn : Word) = formatA op nnn := rfl

theorem concat_XI (op x : Nibble) (nn : Byte) : (op ++ x ++ nn : Word) = formatXI op x nn := by
  have h := append_toNat (op ++ x) nn
  rw [append_toNat op x] at h
  exact BitVec.eq_of_toNat_eq (h.trans (by rw [formatXI_toNat]; omega))

theorem concat_XYN (op x y n : Nibble) : (op ++ x ++ y ++ n : Word) = formatXYN op x y n := by
  have h := append_toNat (op ++ x ++ y) n
  rw [append_toNat (op ++ x) y, append_toNat op x] at h
  exact BitVec.eq_of_toNat_eq (h.trans (by rw [formatXYN_toNat]; omega))

/-! Each format read back field by field. -/

@[simp] theorem opField_formatA (op : Nibble) (nnn : Addr12) : opField (formatA op nnn) = op :=
  BitVec.eq_of_toNat_eq (by rw [opField_toNat, formatA_toNat]; omega)

@[simp] theorem nnnField_formatA (op : Nibble) (nnn : Addr12) : nnnField (formatA op nnn) = nnn :=
  BitVec.eq_of_toNat_eq (by rw [nnnField_toNat, formatA_toNat]; omega)

@[simp] theorem opField_formatXI (op x : Nibble) (nn : Byte) : opField (formatXI op x nn) = op :=
  BitVec.eq_of_toNat_eq (by rw [opField_toNat, formatXI_toNat]; omega)

@[simp] theorem xField_formatXI (op x : Nibble) (nn : Byte) : xField (formatXI op x nn) = x :=
  BitVec.eq_of_toNat_eq (by rw [xField_toNat, formatXI_toNat]; omega)

@[simp] theorem nnField_formatXI (op x : Nibble) (nn : Byte) : nnField (formatXI op x nn) = nn :=
  BitVec.eq_of_toNat_eq (by rw [nnField_toNat, formatXI_toNat]; omega)

@[simp] theorem opField_formatXYN (op x y n : Nibble) : opField (formatXYN op x y n) = op :=
  BitVec.eq_of_toNat_eq (by rw [opField_toNat, formatXYN_toNat]; omega)

@[simp] theorem xField_formatXYN (op x y n : Nibble) : xField (formatXYN op x y n) = x :=
  BitVec.eq_of_toNat_eq (by rw [xField_toNat, formatXYN_toNat]; omega)

@[simp] theorem yField_formatXYN (op x y n : Nibble) : yField (formatXYN op x y n) = y :=
  BitVec.eq_of_toNat_eq (by rw [yField_toNat, formatXYN_toNat]; omega)

@[simp] theorem nField_formatXYN (op x y n : Nibble) : nField (formatXYN op x y n) = n :=
  BitVec.eq_of_toNat_eq (by rw [nField_toNat, formatXYN_toNat]; omega)

/-! Every word is each of its formats. -/

theorem formatA_fields (w : Word) : formatA (opField w) (nnnField w) = w :=
  BitVec.eq_of_toNat_eq (by rw [formatA_toNat, opField_toNat, nnnField_toNat]; omega)

theorem formatXI_fields (w : Word) : formatXI (opField w) (xField w) (nnField w) = w :=
  BitVec.eq_of_toNat_eq (by rw [formatXI_toNat, opField_toNat, xField_toNat, nnField_toNat]; omega)

theorem formatXYN_fields (w : Word) : formatXYN (opField w) (xField w) (yField w) (nField w) = w :=
  BitVec.eq_of_toNat_eq (by
    rw [formatXYN_toNat, opField_toNat, xField_toNat, yField_toNat, nField_toNat]; omega)

/-- The bytes of a word, high byte first, are the word (20 R56). -/
theorem wordOfBytes_highByte_lowByte (w : Word) : wordOfBytes (highByte w) (lowByte w) = w :=
  BitVec.eq_of_toNat_eq (by
    rw [wordOfBytes_toNat]; simp [highByte, lowByte, Nat.shiftRight_eq_div_pow]; omega)

/-! The masks of the opcode map (30 R85) as conditions on the fields. -/

theorem and_F000_toNat (w : Word) : (w &&& 0xF000#16).toNat = w.toNat / 4096 * 4096 := by
  have h : w &&& 0xF000#16 = (w >>> 12) <<< 12 := by
    ext i hi; interval_cases i <;> simp [BitVec.getElem_shiftLeft]
  rw [h]; simp [Nat.shiftRight_eq_div_pow, Nat.shiftLeft_eq]; omega

theorem and_F00F_toNat (w : Word) : (w &&& 0xF00F#16).toNat = w.toNat / 4096 * 4096 + w.toNat % 16 := by
  have h : w &&& 0xF00F#16 = (w &&& 0xF000#16) + (w &&& 0x000F#16) := by
    rw [BitVec.add_eq_or_of_and_eq_zero]
    · ext i hi; interval_cases i <;> simp
    · ext i hi; interval_cases i <;> simp
  have h0 : (w &&& 0x000F#16).toNat = w.toNat % 16 := by
    rw [BitVec.toNat_and]; exact Nat.and_two_pow_sub_one_eq_mod _ 4
  have := and_F000_toNat w
  rw [h, BitVec.toNat_add]; omega

theorem and_F0FF_toNat (w : Word) : (w &&& 0xF0FF#16).toNat = w.toNat / 4096 * 4096 + w.toNat % 256 := by
  have h : w &&& 0xF0FF#16 = (w &&& 0xF000#16) + (w &&& 0x00FF#16) := by
    rw [BitVec.add_eq_or_of_and_eq_zero]
    · ext i hi; interval_cases i <;> simp
    · ext i hi; interval_cases i <;> simp
  have h0 : (w &&& 0x00FF#16).toNat = w.toNat % 256 := by
    rw [BitVec.toNat_and]; exact Nat.and_two_pow_sub_one_eq_mod _ 8
  have := and_F000_toNat w
  rw [h, BitVec.toNat_add]; omega

theorem and_FFFF_toNat (w : Word) : (w &&& 0xFFFF#16).toNat = w.toNat := by
  rw [BitVec.toNat_and]; exact (Nat.and_two_pow_sub_one_eq_mod _ 16).trans (by omega)

/-- Matching a row, as an equation of numbers. -/
theorem matchesWord_iff (r : OpcodeRow) (w : Word) :
    r.matchesWord w = true ↔ (w &&& r.mask).toNat = r.pattern.toNat := by
  rw [OpcodeRow.matchesWord, beq_iff_eq, BitVec.toNat_inj]

theorem matchesWord_F000 (p w : Word) :
    (⟨0xF000, p⟩ : OpcodeRow).matchesWord w = true ↔ w.toNat / 4096 * 4096 = p.toNat :=
  (matchesWord_iff _ w).trans (iff_of_eq (congrArg (· = p.toNat) (and_F000_toNat w)))

theorem matchesWord_F00F (p w : Word) :
    (⟨0xF00F, p⟩ : OpcodeRow).matchesWord w = true ↔ w.toNat / 4096 * 4096 + w.toNat % 16 = p.toNat :=
  (matchesWord_iff _ w).trans (iff_of_eq (congrArg (· = p.toNat) (and_F00F_toNat w)))

theorem matchesWord_F0FF (p w : Word) :
    (⟨0xF0FF, p⟩ : OpcodeRow).matchesWord w = true ↔ w.toNat / 4096 * 4096 + w.toNat % 256 = p.toNat :=
  (matchesWord_iff _ w).trans (iff_of_eq (congrArg (· = p.toNat) (and_F0FF_toNat w)))

theorem matchesWord_FFFF (p w : Word) :
    (⟨0xFFFF, p⟩ : OpcodeRow).matchesWord w = true ↔ w.toNat = p.toNat :=
  (matchesWord_iff _ w).trans (iff_of_eq (congrArg (· = p.toNat) (and_FFFF_toNat w)))

end Sys2Proof.Laws
end

