-- ==== Sys2Proof/Laws/State.lean ====
section
/-! SUPPORT. Every field of the state after every update, so that no later proof unfolds a record update; and the
three reads (register, byte, slot, pixel) after the updates that leave them alone. -/

namespace Sys2Proof.Machine

/-! `setReg` -/

@[simp] theorem State.setReg_regs (s : State) (r : Nibble) (v : Byte) :
    (s.setReg r v).regs = s.regs.set r.toNat v r.isLt := rfl
@[simp] theorem State.setReg_index (s : State) (r : Nibble) (v : Byte) : (s.setReg r v).index = s.index := rfl
@[simp] theorem State.setReg_pc (s : State) (r : Nibble) (v : Byte) : (s.setReg r v).pc = s.pc := rfl
@[simp] theorem State.setReg_sp (s : State) (r : Nibble) (v : Byte) : (s.setReg r v).sp = s.sp := rfl
@[simp] theorem State.setReg_stack (s : State) (r : Nibble) (v : Byte) : (s.setReg r v).stack = s.stack := rfl
@[simp] theorem State.setReg_dt (s : State) (r : Nibble) (v : Byte) : (s.setReg r v).dt = s.dt := rfl
@[simp] theorem State.setReg_st (s : State) (r : Nibble) (v : Byte) : (s.setReg r v).st = s.st := rfl
@[simp] theorem State.setReg_fb (s : State) (r : Nibble) (v : Byte) : (s.setReg r v).fb = s.fb := rfl
@[simp] theorem State.setReg_dirty (s : State) (r : Nibble) (v : Byte) : (s.setReg r v).dirty = s.dirty := rfl
@[simp] theorem State.setReg_key (s : State) (r : Nibble) (v : Byte) : (s.setReg r v).key = s.key := rfl
@[simp] theorem State.setReg_run (s : State) (r : Nibble) (v : Byte) : (s.setReg r v).run = s.run := rfl
@[simp] theorem State.setReg_fault (s : State) (r : Nibble) (v : Byte) : (s.setReg r v).fault = s.fault := rfl
@[simp] theorem State.setReg_mem (s : State) (r : Nibble) (v : Byte) : (s.setReg r v).mem = s.mem := rfl
@[simp] theorem State.setReg_draws (s : State) (r : Nibble) (v : Byte) : (s.setReg r v).draws = s.draws := rfl
@[simp] theorem State.setReg_build (s : State) (r : Nibble) (v : Byte) : (s.setReg r v).build = s.build := rfl
@[simp] theorem State.setReg_byteAt (s : State) (r : Nibble) (v : Byte) (q : Nat) :
    (s.setReg r v).byteAt q = s.byteAt q := rfl
@[simp] theorem State.setReg_slot (s : State) (r : Nibble) (v : Byte) (q : Nat) :
    (s.setReg r v).slot q = s.slot q := rfl
@[simp] theorem State.setReg_pixel (s : State) (r : Nibble) (v : Byte) (q : Nat) :
    (s.setReg r v).pixel q = s.pixel q := rfl

/-! `setFlag` -/

@[simp] theorem State.setFlag_index (s : State) (b : Bool) : (s.setFlag b).index = s.index := rfl
@[simp] theorem State.setFlag_pc (s : State) (b : Bool) : (s.setFlag b).pc = s.pc := rfl
@[simp] theorem State.setFlag_sp (s : State) (b : Bool) : (s.setFlag b).sp = s.sp := rfl
@[simp] theorem State.setFlag_stack (s : State) (b : Bool) : (s.setFlag b).stack = s.stack := rfl
@[simp] theorem State.setFlag_dt (s : State) (b : Bool) : (s.setFlag b).dt = s.dt := rfl
@[simp] theorem State.setFlag_st (s : State) (b : Bool) : (s.setFlag b).st = s.st := rfl
@[simp] theorem State.setFlag_fb (s : State) (b : Bool) : (s.setFlag b).fb = s.fb := rfl
@[simp] theorem State.setFlag_dirty (s : State) (b : Bool) : (s.setFlag b).dirty = s.dirty := rfl
@[simp] theorem State.setFlag_key (s : State) (b : Bool) : (s.setFlag b).key = s.key := rfl
@[simp] theorem State.setFlag_run (s : State) (b : Bool) : (s.setFlag b).run = s.run := rfl
@[simp] theorem State.setFlag_fault (s : State) (b : Bool) : (s.setFlag b).fault = s.fault := rfl
@[simp] theorem State.setFlag_mem (s : State) (b : Bool) : (s.setFlag b).mem = s.mem := rfl
@[simp] theorem State.setFlag_draws (s : State) (b : Bool) : (s.setFlag b).draws = s.draws := rfl
@[simp] theorem State.setFlag_build (s : State) (b : Bool) : (s.setFlag b).build = s.build := rfl
@[simp] theorem State.setFlag_byteAt (s : State) (b : Bool) (q : Nat) :
    (s.setFlag b).byteAt q = s.byteAt q := rfl
@[simp] theorem State.setFlag_slot (s : State) (b : Bool) (q : Nat) :
    (s.setFlag b).slot q = s.slot q := rfl
@[simp] theorem State.setFlag_pixel (s : State) (b : Bool) (q : Nat) :
    (s.setFlag b).pixel q = s.pixel q := rfl

/-! `setFlagThenReg` -/

@[simp] theorem State.setFlagThenReg_index (s : State) (b : Bool) (r : Nibble) (v : Byte) :
    (s.setFlagThenReg b r v).index = s.index := rfl
@[simp] theorem State.setFlagThenReg_pc (s : State) (b : Bool) (r : Nibble) (v : Byte) :
    (s.setFlagThenReg b r v).pc = s.pc := rfl
@[simp] theorem State.setFlagThenReg_sp (s : State) (b : Bool) (r : Nibble) (v : Byte) :
    (s.setFlagThenReg b r v).sp = s.sp := rfl
@[simp] theorem State.setFlagThenReg_stack (s : State) (b : Bool) (r : Nibble) (v : Byte) :
    (s.setFlagThenReg b r v).stack = s.stack := rfl
@[simp] theorem State.setFlagThenReg_dt (s : State) (b : Bool) (r : Nibble) (v : Byte) :
    (s.setFlagThenReg b r v).dt = s.dt := rfl
@[simp] theorem State.setFlagThenReg_st (s : State) (b : Bool) (r : Nibble) (v : Byte) :
    (s.setFlagThenReg b r v).st = s.st := rfl
@[simp] theorem State.setFlagThenReg_fb (s : State) (b : Bool) (r : Nibble) (v : Byte) :
    (s.setFlagThenReg b r v).fb = s.fb := rfl
@[simp] theorem State.setFlagThenReg_dirty (s : State) (b : Bool) (r : Nibble) (v : Byte) :
    (s.setFlagThenReg b r v).dirty = s.dirty := rfl
@[simp] theorem State.setFlagThenReg_key (s : State) (b : Bool) (r : Nibble) (v : Byte) :
    (s.setFlagThenReg b r v).key = s.key := rfl
@[simp] theorem State.setFlagThenReg_run (s : State) (b : Bool) (r : Nibble) (v : Byte) :
    (s.setFlagThenReg b r v).run = s.run := rfl
@[simp] theorem State.setFlagThenReg_fault (s : State) (b : Bool) (r : Nibble) (v : Byte) :
    (s.setFlagThenReg b r v).fault = s.fault := rfl
@[simp] theorem State.setFlagThenReg_mem (s : State) (b : Bool) (r : Nibble) (v : Byte) :
    (s.setFlagThenReg b r v).mem = s.mem := rfl
@[simp] theorem State.setFlagThenReg_draws (s : State) (b : Bool) (r : Nibble) (v : Byte) :
    (s.setFlagThenReg b r v).draws = s.draws := rfl
@[simp] theorem State.setFlagThenReg_build (s : State) (b : Bool) (r : Nibble) (v : Byte) :
    (s.setFlagThenReg b r v).build = s.build := rfl
@[simp] theorem State.setFlagThenReg_byteAt (s : State) (b : Bool) (r : Nibble) (v : Byte) (q : Nat) :
    (s.setFlagThenReg b r v).byteAt q = s.byteAt q := rfl
@[simp] theorem State.setFlagThenReg_slot (s : State) (b : Bool) (r : Nibble) (v : Byte) (q : Nat) :
    (s.setFlagThenReg b r v).slot q = s.slot q := rfl
@[simp] theorem State.setFlagThenReg_pixel (s : State) (b : Bool) (r : Nibble) (v : Byte) (q : Nat) :
    (s.setFlagThenReg b r v).pixel q = s.pixel q := rfl

/-! `setRegsUpTo` -/

@[simp] theorem State.setRegsUpTo_index (s : State) (r : Nibble) (values : Nat → Byte) :
    (s.setRegsUpTo r values).index = s.index := rfl
@[simp] theorem State.setRegsUpTo_pc (s : State) (r : Nibble) (values : Nat → Byte) :
    (s.setRegsUpTo r values).pc = s.pc := rfl
@[simp] theorem State.setRegsUpTo_sp (s : State) (r : Nibble) (values : Nat → Byte) :
    (s.setRegsUpTo r values).sp = s.sp := rfl
@[simp] theorem State.setRegsUpTo_stack (s : State) (r : Nibble) (values : Nat → Byte) :
    (s.setRegsUpTo r values).stack = s.stack := rfl
@[simp] theorem State.setRegsUpTo_dt (s : State) (r : Nibble) (values : Nat → Byte) :
    (s.setRegsUpTo r values).dt = s.dt := rfl
@[simp] theorem State.setRegsUpTo_st (s : State) (r : Nibble) (values : Nat → Byte) :
    (s.setRegsUpTo r values).st = s.st := rfl
@[simp] theorem State.setRegsUpTo_fb (s : State) (r : Nibble) (values : Nat → Byte) :
    (s.setRegsUpTo r values).fb = s.fb := rfl
@[simp] theorem State.setRegsUpTo_dirty (s : State) (r : Nibble) (values : Nat → Byte) :
    (s.setRegsUpTo r values).dirty = s.dirty := rfl
@[simp] theorem State.setRegsUpTo_key (s : State) (r : Nibble) (values : Nat → Byte) :
    (s.setRegsUpTo r values).key = s.key := rfl
@[simp] theorem State.setRegsUpTo_run (s : State) (r : Nibble) (values : Nat → Byte) :
    (s.setRegsUpTo r values).run = s.run := rfl
@[simp] theorem State.setRegsUpTo_fault (s : State) (r : Nibble) (values : Nat → Byte) :
    (s.setRegsUpTo r values).fault = s.fault := rfl
@[simp] theorem State.setRegsUpTo_mem (s : State) (r : Nibble) (values : Nat → Byte) :
    (s.setRegsUpTo r values).mem = s.mem := rfl
@[simp] theorem State.setRegsUpTo_draws (s : State) (r : Nibble) (values : Nat → Byte) :
    (s.setRegsUpTo r values).draws = s.draws := rfl
@[simp] theorem State.setRegsUpTo_build (s : State) (r : Nibble) (values : Nat → Byte) :
    (s.setRegsUpTo r values).build = s.build := rfl
@[simp] theorem State.setRegsUpTo_byteAt (s : State) (r : Nibble) (values : Nat → Byte) (q : Nat) :
    (s.setRegsUpTo r values).byteAt q = s.byteAt q := rfl
@[simp] theorem State.setRegsUpTo_slot (s : State) (r : Nibble) (values : Nat → Byte) (q : Nat) :
    (s.setRegsUpTo r values).slot q = s.slot q := rfl
@[simp] theorem State.setRegsUpTo_pixel (s : State) (r : Nibble) (values : Nat → Byte) (q : Nat) :
    (s.setRegsUpTo r values).pixel q = s.pixel q := rfl

/-! `setPc` -/

@[simp] theorem State.setPc_regs (s : State) (target : Word) : (s.setPc target).regs = s.regs := rfl
@[simp] theorem State.setPc_index (s : State) (target : Word) : (s.setPc target).index = s.index := rfl
@[simp] theorem State.setPc_pc (s : State) (target : Word) : (s.setPc target).pc = target := rfl
@[simp] theorem State.setPc_sp (s : State) (target : Word) : (s.setPc target).sp = s.sp := rfl
@[simp] theorem State.setPc_stack (s : State) (target : Word) : (s.setPc target).stack = s.stack := rfl
@[simp] theorem State.setPc_dt (s : State) (target : Word) : (s.setPc target).dt = s.dt := rfl
@[simp] theorem State.setPc_st (s : State) (target : Word) : (s.setPc target).st = s.st := rfl
@[simp] theorem State.setPc_fb (s : State) (target : Word) : (s.setPc target).fb = s.fb := rfl
@[simp] theorem State.setPc_dirty (s : State) (target : Word) : (s.setPc target).dirty = s.dirty := rfl
@[simp] theorem State.setPc_key (s : State) (target : Word) : (s.setPc target).key = s.key := rfl
@[simp] theorem State.setPc_run (s : State) (target : Word) : (s.setPc target).run = s.run := rfl
@[simp] theorem State.setPc_fault (s : State) (target : Word) : (s.setPc target).fault = s.fault := rfl
@[simp] theorem State.setPc_mem (s : State) (target : Word) : (s.setPc target).mem = s.mem := rfl
@[simp] theorem State.setPc_draws (s : State) (target : Word) : (s.setPc target).draws = s.draws := rfl
@[simp] theorem State.setPc_build (s : State) (target : Word) : (s.setPc target).build = s.build := rfl
@[simp] theorem State.setPc_reg (s : State) (target : Word) (q : Nibble) :
    (s.setPc target).reg q = s.reg q := rfl
@[simp] theorem State.setPc_byteAt (s : State) (target : Word) (q : Nat) :
    (s.setPc target).byteAt q = s.byteAt q := rfl
@[simp] theorem State.setPc_slot (s : State) (target : Word) (q : Nat) :
    (s.setPc target).slot q = s.slot q := rfl
@[simp] theorem State.setPc_pixel (s : State) (target : Word) (q : Nat) :
    (s.setPc target).pixel q = s.pixel q := rfl

/-! `skip` -/

@[simp] theorem State.skip_regs (s : State) : s.skip.regs = s.regs := rfl
@[simp] theorem State.skip_index (s : State) : s.skip.index = s.index := rfl
@[simp] theorem State.skip_pc (s : State) : s.skip.pc = s.pc + 2 := rfl
@[simp] theorem State.skip_sp (s : State) : s.skip.sp = s.sp := rfl
@[simp] theorem State.skip_stack (s : State) : s.skip.stack = s.stack := rfl
@[simp] theorem State.skip_dt (s : State) : s.skip.dt = s.dt := rfl
@[simp] theorem State.skip_st (s : State) : s.skip.st = s.st := rfl
@[simp] theorem State.skip_fb (s : State) : s.skip.fb = s.fb := rfl
@[simp] theorem State.skip_dirty (s : State) : s.skip.dirty = s.dirty := rfl
@[simp] theorem State.skip_key (s : State) : s.skip.key = s.key := rfl
@[simp] theorem State.skip_run (s : State) : s.skip.run = s.run := rfl
@[simp] theorem State.skip_fault (s : State) : s.skip.fault = s.fault := rfl
@[simp] theorem State.skip_mem (s : State) : s.skip.mem = s.mem := rfl
@[simp] theorem State.skip_draws (s : State) : s.skip.draws = s.draws := rfl
@[simp] theorem State.skip_build (s : State) : s.skip.build = s.build := rfl
@[simp] theorem State.skip_reg (s : State) (q : Nibble) :
    s.skip.reg q = s.reg q := rfl
@[simp] theorem State.skip_byteAt (s : State) (q : Nat) :
    s.skip.byteAt q = s.byteAt q := rfl
@[simp] theorem State.skip_slot (s : State) (q : Nat) :
    s.skip.slot q = s.slot q := rfl
@[simp] theorem State.skip_pixel (s : State) (q : Nat) :
    s.skip.pixel q = s.pixel q := rfl

/-! `skipIf` -/

@[simp] theorem State.skipIf_regs (s : State) (c : Bool) : (s.skipIf c).regs = s.regs := by cases c <;> rfl
@[simp] theorem State.skipIf_index (s : State) (c : Bool) : (s.skipIf c).index = s.index := by cases c <;> rfl
@[simp] theorem State.skipIf_pc (s : State) (c : Bool) :
    (s.skipIf c).pc = if c then s.pc + 2 else s.pc := by cases c <;> rfl
@[simp] theorem State.skipIf_sp (s : State) (c : Bool) : (s.skipIf c).sp = s.sp := by cases c <;> rfl
@[simp] theorem State.skipIf_stack (s : State) (c : Bool) : (s.skipIf c).stack = s.stack := by cases c <;> rfl
@[simp] theorem State.skipIf_dt (s : State) (c : Bool) : (s.skipIf c).dt = s.dt := by cases c <;> rfl
@[simp] theorem State.skipIf_st (s : State) (c : Bool) : (s.skipIf c).st = s.st := by cases c <;> rfl
@[simp] theorem State.skipIf_fb (s : State) (c : Bool) : (s.skipIf c).fb = s.fb := by cases c <;> rfl
@[simp] theorem State.skipIf_dirty (s : State) (c : Bool) : (s.skipIf c).dirty = s.dirty := by cases c <;> rfl
@[simp] theorem State.skipIf_key (s : State) (c : Bool) : (s.skipIf c).key = s.key := by cases c <;> rfl
@[simp] theorem State.skipIf_run (s : State) (c : Bool) : (s.skipIf c).run = s.run := by cases c <;> rfl
@[simp] theorem State.skipIf_fault (s : State) (c : Bool) : (s.skipIf c).fault = s.fault := by cases c <;> rfl
@[simp] theorem State.skipIf_mem (s : State) (c : Bool) : (s.skipIf c).mem = s.mem := by cases c <;> rfl
@[simp] theorem State.skipIf_draws (s : State) (c : Bool) : (s.skipIf c).draws = s.draws := by cases c <;> rfl
@[simp] theorem State.skipIf_build (s : State) (c : Bool) : (s.skipIf c).build = s.build := by cases c <;> rfl
@[simp] theorem State.skipIf_reg (s : State) (c : Bool) (q : Nibble) :
    (s.skipIf c).reg q = s.reg q := by cases c <;> rfl
@[simp] theorem State.skipIf_byteAt (s : State) (c : Bool) (q : Nat) :
    (s.skipIf c).byteAt q = s.byteAt q := by cases c <;> rfl
@[simp] theorem State.skipIf_slot (s : State) (c : Bool) (q : Nat) :
    (s.skipIf c).slot q = s.slot q := by cases c <;> rfl
@[simp] theorem State.skipIf_pixel (s : State) (c : Bool) (q : Nat) :
    (s.skipIf c).pixel q = s.pixel q := by cases c <;> rfl

/-! `latchFault` -/

@[simp] theorem State.latchFault_regs (s : State) (f : Fault) : (s.latchFault f).regs = s.regs := rfl
@[simp] theorem State.latchFault_index (s : State) (f : Fault) : (s.latchFault f).index = s.index := rfl
@[simp] theorem State.latchFault_pc (s : State) (f : Fault) : (s.latchFault f).pc = s.pc := rfl
@[simp] theorem State.latchFault_sp (s : State) (f : Fault) : (s.latchFault f).sp = s.sp := rfl
@[simp] theorem State.latchFault_stack (s : State) (f : Fault) : (s.latchFault f).stack = s.stack := rfl
@[simp] theorem State.latchFault_dt (s : State) (f : Fault) : (s.latchFault f).dt = s.dt := rfl
@[simp] theorem State.latchFault_st (s : State) (f : Fault) : (s.latchFault f).st = s.st := rfl
@[simp] theorem State.latchFault_fb (s : State) (f : Fault) : (s.latchFault f).fb = s.fb := rfl
@[simp] theorem State.latchFault_dirty (s : State) (f : Fault) : (s.latchFault f).dirty = s.dirty := rfl
@[simp] theorem State.latchFault_key (s : State) (f : Fault) : (s.latchFault f).key = s.key := rfl
@[simp] theorem State.latchFault_run (s : State) (f : Fault) : (s.latchFault f).run = s.run := rfl
@[simp] theorem State.latchFault_fault (s : State) (f : Fault) : (s.latchFault f).fault = some f := rfl
@[simp] theorem State.latchFault_mem (s : State) (f : Fault) : (s.latchFault f).mem = s.mem := rfl
@[simp] theorem State.latchFault_draws (s : State) (f : Fault) : (s.latchFault f).draws = s.draws := rfl
@[simp] theorem State.latchFault_build (s : State) (f : Fault) : (s.latchFault f).build = s.build := rfl
@[simp] theorem State.latchFault_reg (s : State) (f : Fault) (q : Nibble) :
    (s.latchFault f).reg q = s.reg q := rfl
@[simp] theorem State.latchFault_byteAt (s : State) (f : Fault) (q : Nat) :
    (s.latchFault f).byteAt q = s.byteAt q := rfl
@[simp] theorem State.latchFault_slot (s : State) (f : Fault) (q : Nat) :
    (s.latchFault f).slot q = s.slot q := rfl
@[simp] theorem State.latchFault_pixel (s : State) (f : Fault) (q : Nat) :
    (s.latchFault f).pixel q = s.pixel q := rfl

/-! `pushPc` -/

@[simp] theorem State.pushPc_regs (s : State) : s.pushPc.regs = s.regs := rfl
@[simp] theorem State.pushPc_index (s : State) : s.pushPc.index = s.index := rfl
@[simp] theorem State.pushPc_pc (s : State) : s.pushPc.pc = s.pc := rfl
@[simp] theorem State.pushPc_sp (s : State) : s.pushPc.sp = s.sp + 1 := rfl
@[simp] theorem State.pushPc_stack (s : State) : s.pushPc.stack = Stack.write s.stack s.sp s.pc := rfl
@[simp] theorem State.pushPc_dt (s : State) : s.pushPc.dt = s.dt := rfl
@[simp] theorem State.pushPc_st (s : State) : s.pushPc.st = s.st := rfl
@[simp] theorem State.pushPc_fb (s : State) : s.pushPc.fb = s.fb := rfl
@[simp] theorem State.pushPc_dirty (s : State) : s.pushPc.dirty = s.dirty := rfl
@[simp] theorem State.pushPc_key (s : State) : s.pushPc.key = s.key := rfl
@[simp] theorem State.pushPc_run (s : State) : s.pushPc.run = s.run := rfl
@[simp] theorem State.pushPc_fault (s : State) : s.pushPc.fault = s.fault := rfl
@[simp] theorem State.pushPc_mem (s : State) : s.pushPc.mem = s.mem := rfl
@[simp] theorem State.pushPc_draws (s : State) : s.pushPc.draws = s.draws := rfl
@[simp] theorem State.pushPc_build (s : State) : s.pushPc.build = s.build := rfl
@[simp] theorem State.pushPc_reg (s : State) (q : Nibble) :
    s.pushPc.reg q = s.reg q := rfl
@[simp] theorem State.pushPc_byteAt (s : State) (q : Nat) :
    s.pushPc.byteAt q = s.byteAt q := rfl
@[simp] theorem State.pushPc_pixel (s : State) (q : Nat) :
    s.pushPc.pixel q = s.pixel q := rfl

/-! `popPc` -/

@[simp] theorem State.popPc_regs (s : State) : s.popPc.regs = s.regs := rfl
@[simp] theorem State.popPc_index (s : State) : s.popPc.index = s.index := rfl
@[simp] theorem State.popPc_pc (s : State) : s.popPc.pc = s.slot (s.sp - 1) := rfl
@[simp] theorem State.popPc_sp (s : State) : s.popPc.sp = s.sp - 1 := rfl
@[simp] theorem State.popPc_stack (s : State) : s.popPc.stack = s.stack := rfl
@[simp] theorem State.popPc_dt (s : State) : s.popPc.dt = s.dt := rfl
@[simp] theorem State.popPc_st (s : State) : s.popPc.st = s.st := rfl
@[simp] theorem State.popPc_fb (s : State) : s.popPc.fb = s.fb := rfl
@[simp] theorem State.popPc_dirty (s : State) : s.popPc.dirty = s.dirty := rfl
@[simp] theorem State.popPc_key (s : State) : s.popPc.key = s.key := rfl
@[simp] theorem State.popPc_run (s : State) : s.popPc.run = s.run := rfl
@[simp] theorem State.popPc_fault (s : State) : s.popPc.fault = s.fault := rfl
@[simp] theorem State.popPc_mem (s : State) : s.popPc.mem = s.mem := rfl
@[simp] theorem State.popPc_draws (s : State) : s.popPc.draws = s.draws := rfl
@[simp] theorem State.popPc_build (s : State) : s.popPc.build = s.build := rfl
@[simp] theorem State.popPc_reg (s : State) (q : Nibble) :
    s.popPc.reg q = s.reg q := rfl
@[simp] theorem State.popPc_byteAt (s : State) (q : Nat) :
    s.popPc.byteAt q = s.byteAt q := rfl
@[simp] theorem State.popPc_slot (s : State) (q : Nat) :
    s.popPc.slot q = s.slot q := rfl
@[simp] theorem State.popPc_pixel (s : State) (q : Nat) :
    s.popPc.pixel q = s.pixel q := rfl

/-! `countDraw` -/

@[simp] theorem State.countDraw_regs (s : State) : s.countDraw.regs = s.regs := rfl
@[simp] theorem State.countDraw_index (s : State) : s.countDraw.index = s.index := rfl
@[simp] theorem State.countDraw_pc (s : State) : s.countDraw.pc = s.pc := rfl
@[simp] theorem State.countDraw_sp (s : State) : s.countDraw.sp = s.sp := rfl
@[simp] theorem State.countDraw_stack (s : State) : s.countDraw.stack = s.stack := rfl
@[simp] theorem State.countDraw_dt (s : State) : s.countDraw.dt = s.dt := rfl
@[simp] theorem State.countDraw_st (s : State) : s.countDraw.st = s.st := rfl
@[simp] theorem State.countDraw_fb (s : State) : s.countDraw.fb = s.fb := rfl
@[simp] theorem State.countDraw_dirty (s : State) : s.countDraw.dirty = s.dirty := rfl
@[simp] theorem State.countDraw_key (s : State) : s.countDraw.key = s.key := rfl
@[simp] theorem State.countDraw_run (s : State) : s.countDraw.run = s.run := rfl
@[simp] theorem State.countDraw_fault (s : State) : s.countDraw.fault = s.fault := rfl
@[simp] theorem State.countDraw_mem (s : State) : s.countDraw.mem = s.mem := rfl
@[simp] theorem State.countDraw_draws (s : State) : s.countDraw.draws = s.draws + 1 := rfl
@[simp] theorem State.countDraw_build (s : State) : s.countDraw.build = s.build := rfl
@[simp] theorem State.countDraw_reg (s : State) (q : Nibble) :
    s.countDraw.reg q = s.reg q := rfl
@[simp] theorem State.countDraw_byteAt (s : State) (q : Nat) :
    s.countDraw.byteAt q = s.byteAt q := rfl
@[simp] theorem State.countDraw_slot (s : State) (q : Nat) :
    s.countDraw.slot q = s.slot q := rfl
@[simp] theorem State.countDraw_pixel (s : State) (q : Nat) :
    s.countDraw.pixel q = s.pixel q := rfl

/-! `setIndex` -/

@[simp] theorem State.setIndex_regs (s : State) (v : Word) : (s.setIndex v).regs = s.regs := rfl
@[simp] theorem State.setIndex_index (s : State) (v : Word) : (s.setIndex v).index = v := rfl
@[simp] theorem State.setIndex_pc (s : State) (v : Word) : (s.setIndex v).pc = s.pc := rfl
@[simp] theorem State.setIndex_sp (s : State) (v : Word) : (s.setIndex v).sp = s.sp := rfl
@[simp] theorem State.setIndex_stack (s : State) (v : Word) : (s.setIndex v).stack = s.stack := rfl
@[simp] theorem State.setIndex_dt (s : State) (v : Word) : (s.setIndex v).dt = s.dt := rfl
@[simp] theorem State.setIndex_st (s : State) (v : Word) : (s.setIndex v).st = s.st := rfl
@[simp] theorem State.setIndex_fb (s : State) (v : Word) : (s.setIndex v).fb = s.fb := rfl
@[simp] theorem State.setIndex_dirty (s : State) (v : Word) : (s.setIndex v).dirty = s.dirty := rfl
@[simp] theorem State.setIndex_key (s : State) (v : Word) : (s.setIndex v).key = s.key := rfl
@[simp] theorem State.setIndex_run (s : State) (v : Word) : (s.setIndex v).run = s.run := rfl
@[simp] theorem State.setIndex_fault (s : State) (v : Word) : (s.setIndex v).fault = s.fault := rfl
@[simp] theorem State.setIndex_mem (s : State) (v : Word) : (s.setIndex v).mem = s.mem := rfl
@[simp] theorem State.setIndex_draws (s : State) (v : Word) : (s.setIndex v).draws = s.draws := rfl
@[simp] theorem State.setIndex_build (s : State) (v : Word) : (s.setIndex v).build = s.build := rfl
@[simp] theorem State.setIndex_reg (s : State) (v : Word) (q : Nibble) :
    (s.setIndex v).reg q = s.reg q := rfl
@[simp] theorem State.setIndex_byteAt (s : State) (v : Word) (q : Nat) :
    (s.setIndex v).byteAt q = s.byteAt q := rfl
@[simp] theorem State.setIndex_slot (s : State) (v : Word) (q : Nat) :
    (s.setIndex v).slot q = s.slot q := rfl
@[simp] theorem State.setIndex_pixel (s : State) (v : Word) (q : Nat) :
    (s.setIndex v).pixel q = s.pixel q := rfl

/-! `storeAtIndex` -/

@[simp] theorem State.storeAtIndex_regs (s : State) (vs : List Byte) : (s.storeAtIndex vs).regs = s.regs := rfl
@[simp] theorem State.storeAtIndex_index (s : State) (vs : List Byte) : (s.storeAtIndex vs).index = s.index := rfl
@[simp] theorem State.storeAtIndex_pc (s : State) (vs : List Byte) : (s.storeAtIndex vs).pc = s.pc := rfl
@[simp] theorem State.storeAtIndex_sp (s : State) (vs : List Byte) : (s.storeAtIndex vs).sp = s.sp := rfl
@[simp] theorem State.storeAtIndex_stack (s : State) (vs : List Byte) : (s.storeAtIndex vs).stack = s.stack := rfl
@[simp] theorem State.storeAtIndex_dt (s : State) (vs : List Byte) : (s.storeAtIndex vs).dt = s.dt := rfl
@[simp] theorem State.storeAtIndex_st (s : State) (vs : List Byte) : (s.storeAtIndex vs).st = s.st := rfl
@[simp] theorem State.storeAtIndex_fb (s : State) (vs : List Byte) : (s.storeAtIndex vs).fb = s.fb := rfl
@[simp] theorem State.storeAtIndex_dirty (s : State) (vs : List Byte) : (s.storeAtIndex vs).dirty = s.dirty := rfl
@[simp] theorem State.storeAtIndex_key (s : State) (vs : List Byte) : (s.storeAtIndex vs).key = s.key := rfl
@[simp] theorem State.storeAtIndex_run (s : State) (vs : List Byte) : (s.storeAtIndex vs).run = s.run := rfl
@[simp] theorem State.storeAtIndex_fault (s : State) (vs : List Byte) : (s.storeAtIndex vs).fault = s.fault := rfl
@[simp] theorem State.storeAtIndex_mem (s : State) (vs : List Byte) :
    (s.storeAtIndex vs).mem = Memory.writeBytes s.mem s.index.toNat vs := rfl
@[simp] theorem State.storeAtIndex_draws (s : State) (vs : List Byte) : (s.storeAtIndex vs).draws = s.draws := rfl
@[simp] theorem State.storeAtIndex_build (s : State) (vs : List Byte) : (s.storeAtIndex vs).build = s.build := rfl
@[simp] theorem State.storeAtIndex_reg (s : State) (vs : List Byte) (q : Nibble) :
    (s.storeAtIndex vs).reg q = s.reg q := rfl
@[simp] theorem State.storeAtIndex_slot (s : State) (vs : List Byte) (q : Nat) :
    (s.storeAtIndex vs).slot q = s.slot q := rfl
@[simp] theorem State.storeAtIndex_pixel (s : State) (vs : List Byte) (q : Nat) :
    (s.storeAtIndex vs).pixel q = s.pixel q := rfl

/-! `setFb` -/

@[simp] theorem State.setFb_regs (s : State) (fb : Bitmap) : (s.setFb fb).regs = s.regs := rfl
@[simp] theorem State.setFb_index (s : State) (fb : Bitmap) : (s.setFb fb).index = s.index := rfl
@[simp] theorem State.setFb_pc (s : State) (fb : Bitmap) : (s.setFb fb).pc = s.pc := rfl
@[simp] theorem State.setFb_sp (s : State) (fb : Bitmap) : (s.setFb fb).sp = s.sp := rfl
@[simp] theorem State.setFb_stack (s : State) (fb : Bitmap) : (s.setFb fb).stack = s.stack := rfl
@[simp] theorem State.setFb_dt (s : State) (fb : Bitmap) : (s.setFb fb).dt = s.dt := rfl
@[simp] theorem State.setFb_st (s : State) (fb : Bitmap) : (s.setFb fb).st = s.st := rfl
@[simp] theorem State.setFb_fb (s : State) (fb : Bitmap) : (s.setFb fb).fb = fb := rfl
@[simp] theorem State.setFb_dirty (s : State) (fb : Bitmap) : (s.setFb fb).dirty = true := rfl
@[simp] theorem State.setFb_key (s : State) (fb : Bitmap) : (s.setFb fb).key = s.key := rfl
@[simp] theorem State.setFb_run (s : State) (fb : Bitmap) : (s.setFb fb).run = s.run := rfl
@[simp] theorem State.setFb_fault (s : State) (fb : Bitmap) : (s.setFb fb).fault = s.fault := rfl
@[simp] theorem State.setFb_mem (s : State) (fb : Bitmap) : (s.setFb fb).mem = s.mem := rfl
@[simp] theorem State.setFb_draws (s : State) (fb : Bitmap) : (s.setFb fb).draws = s.draws := rfl
@[simp] theorem State.setFb_build (s : State) (fb : Bitmap) : (s.setFb fb).build = s.build := rfl
@[simp] theorem State.setFb_reg (s : State) (fb : Bitmap) (q : Nibble) :
    (s.setFb fb).reg q = s.reg q := rfl
@[simp] theorem State.setFb_byteAt (s : State) (fb : Bitmap) (q : Nat) :
    (s.setFb fb).byteAt q = s.byteAt q := rfl
@[simp] theorem State.setFb_slot (s : State) (fb : Bitmap) (q : Nat) :
    (s.setFb fb).slot q = s.slot q := rfl

/-! `drawSprite` -/

@[simp] theorem State.drawSprite_index (s : State) (px : List Nat) : (s.drawSprite px).index = s.index := rfl
@[simp] theorem State.drawSprite_pc (s : State) (px : List Nat) : (s.drawSprite px).pc = s.pc := rfl
@[simp] theorem State.drawSprite_sp (s : State) (px : List Nat) : (s.drawSprite px).sp = s.sp := rfl
@[simp] theorem State.drawSprite_stack (s : State) (px : List Nat) : (s.drawSprite px).stack = s.stack := rfl
@[simp] theorem State.drawSprite_dt (s : State) (px : List Nat) : (s.drawSprite px).dt = s.dt := rfl
@[simp] theorem State.drawSprite_st (s : State) (px : List Nat) : (s.drawSprite px).st = s.st := rfl
@[simp] theorem State.drawSprite_fb (s : State) (px : List Nat) : (s.drawSprite px).fb = (blit px s.fb false).1 := rfl
@[simp] theorem State.drawSprite_dirty (s : State) (px : List Nat) : (s.drawSprite px).dirty = true := rfl
@[simp] theorem State.drawSprite_key (s : State) (px : List Nat) : (s.drawSprite px).key = s.key := rfl
@[simp] theorem State.drawSprite_run (s : State) (px : List Nat) : (s.drawSprite px).run = s.run := rfl
@[simp] theorem State.drawSprite_fault (s : State) (px : List Nat) : (s.drawSprite px).fault = s.fault := rfl
@[simp] theorem State.drawSprite_mem (s : State) (px : List Nat) : (s.drawSprite px).mem = s.mem := rfl
@[simp] theorem State.drawSprite_draws (s : State) (px : List Nat) : (s.drawSprite px).draws = s.draws := rfl
@[simp] theorem State.drawSprite_build (s : State) (px : List Nat) : (s.drawSprite px).build = s.build := rfl
@[simp] theorem State.drawSprite_byteAt (s : State) (px : List Nat) (q : Nat) :
    (s.drawSprite px).byteAt q = s.byteAt q := rfl
@[simp] theorem State.drawSprite_slot (s : State) (px : List Nat) (q : Nat) :
    (s.drawSprite px).slot q = s.slot q := rfl

/-! `tick` -/

@[simp] theorem State.tick_regs (s : State) : s.tick.regs = s.regs := rfl
@[simp] theorem State.tick_index (s : State) : s.tick.index = s.index := rfl
@[simp] theorem State.tick_pc (s : State) : s.tick.pc = s.pc := rfl
@[simp] theorem State.tick_sp (s : State) : s.tick.sp = s.sp := rfl
@[simp] theorem State.tick_stack (s : State) : s.tick.stack = s.stack := rfl
@[simp] theorem State.tick_dt (s : State) : s.tick.dt = countDown s.dt := rfl
@[simp] theorem State.tick_st (s : State) : s.tick.st = countDown s.st := rfl
@[simp] theorem State.tick_fb (s : State) : s.tick.fb = s.fb := rfl
@[simp] theorem State.tick_dirty (s : State) : s.tick.dirty = s.dirty := rfl
@[simp] theorem State.tick_key (s : State) : s.tick.key = s.key := rfl
@[simp] theorem State.tick_run (s : State) : s.tick.run = s.run := rfl
@[simp] theorem State.tick_fault (s : State) : s.tick.fault = s.fault := rfl
@[simp] theorem State.tick_mem (s : State) : s.tick.mem = s.mem := rfl
@[simp] theorem State.tick_draws (s : State) : s.tick.draws = s.draws := rfl
@[simp] theorem State.tick_build (s : State) : s.tick.build = s.build := rfl
@[simp] theorem State.tick_reg (s : State) (q : Nibble) :
    s.tick.reg q = s.reg q := rfl
@[simp] theorem State.tick_byteAt (s : State) (q : Nat) :
    s.tick.byteAt q = s.byteAt q := rfl
@[simp] theorem State.tick_slot (s : State) (q : Nat) :
    s.tick.slot q = s.slot q := rfl
@[simp] theorem State.tick_pixel (s : State) (q : Nat) :
    s.tick.pixel q = s.pixel q := rfl

/-! `setKey` -/

@[simp] theorem State.setKey_regs (s : State) (k : Option Nibble) : (s.setKey k).regs = s.regs := rfl
@[simp] theorem State.setKey_index (s : State) (k : Option Nibble) : (s.setKey k).index = s.index := rfl
@[simp] theorem State.setKey_pc (s : State) (k : Option Nibble) : (s.setKey k).pc = s.pc := rfl
@[simp] theorem State.setKey_sp (s : State) (k : Option Nibble) : (s.setKey k).sp = s.sp := rfl
@[simp] theorem State.setKey_stack (s : State) (k : Option Nibble) : (s.setKey k).stack = s.stack := rfl
@[simp] theorem State.setKey_dt (s : State) (k : Option Nibble) : (s.setKey k).dt = s.dt := rfl
@[simp] theorem State.setKey_st (s : State) (k : Option Nibble) : (s.setKey k).st = s.st := rfl
@[simp] theorem State.setKey_fb (s : State) (k : Option Nibble) : (s.setKey k).fb = s.fb := rfl
@[simp] theorem State.setKey_dirty (s : State) (k : Option Nibble) : (s.setKey k).dirty = s.dirty := rfl
@[simp] theorem State.setKey_key (s : State) (k : Option Nibble) : (s.setKey k).key = k := rfl
@[simp] theorem State.setKey_run (s : State) (k : Option Nibble) : (s.setKey k).run = s.run := rfl
@[simp] theorem State.setKey_fault (s : State) (k : Option Nibble) : (s.setKey k).fault = s.fault := rfl
@[simp] theorem State.setKey_mem (s : State) (k : Option Nibble) : (s.setKey k).mem = s.mem := rfl
@[simp] theorem State.setKey_draws (s : State) (k : Option Nibble) : (s.setKey k).draws = s.draws := rfl
@[simp] theorem State.setKey_build (s : State) (k : Option Nibble) : (s.setKey k).build = s.build := rfl
@[simp] theorem State.setKey_reg (s : State) (k : Option Nibble) (q : Nibble) :
    (s.setKey k).reg q = s.reg q := rfl
@[simp] theorem State.setKey_byteAt (s : State) (k : Option Nibble) (q : Nat) :
    (s.setKey k).byteAt q = s.byteAt q := rfl
@[simp] theorem State.setKey_slot (s : State) (k : Option Nibble) (q : Nat) :
    (s.setKey k).slot q = s.slot q := rfl
@[simp] theorem State.setKey_pixel (s : State) (k : Option Nibble) (q : Nat) :
    (s.setKey k).pixel q = s.pixel q := rfl

/-! `clearDirty` -/

@[simp] theorem State.clearDirty_regs (s : State) : s.clearDirty.regs = s.regs := rfl
@[simp] theorem State.clearDirty_index (s : State) : s.clearDirty.index = s.index := rfl
@[simp] theorem State.clearDirty_pc (s : State) : s.clearDirty.pc = s.pc := rfl
@[simp] theorem State.clearDirty_sp (s : State) : s.clearDirty.sp = s.sp := rfl
@[simp] theorem State.clearDirty_stack (s : State) : s.clearDirty.stack = s.stack := rfl
@[simp] theorem State.clearDirty_dt (s : State) : s.clearDirty.dt = s.dt := rfl
@[simp] theorem State.clearDirty_st (s : State) : s.clearDirty.st = s.st := rfl
@[simp] theorem State.clearDirty_fb (s : State) : s.clearDirty.fb = s.fb := rfl
@[simp] theorem State.clearDirty_dirty (s : State) : s.clearDirty.dirty = false := rfl
@[simp] theorem State.clearDirty_key (s : State) : s.clearDirty.key = s.key := rfl
@[simp] theorem State.clearDirty_run (s : State) : s.clearDirty.run = s.run := rfl
@[simp] theorem State.clearDirty_fault (s : State) : s.clearDirty.fault = s.fault := rfl
@[simp] theorem State.clearDirty_mem (s : State) : s.clearDirty.mem = s.mem := rfl
@[simp] theorem State.clearDirty_draws (s : State) : s.clearDirty.draws = s.draws := rfl
@[simp] theorem State.clearDirty_build (s : State) : s.clearDirty.build = s.build := rfl
@[simp] theorem State.clearDirty_reg (s : State) (q : Nibble) :
    s.clearDirty.reg q = s.reg q := rfl
@[simp] theorem State.clearDirty_byteAt (s : State) (q : Nat) :
    s.clearDirty.byteAt q = s.byteAt q := rfl
@[simp] theorem State.clearDirty_slot (s : State) (q : Nat) :
    s.clearDirty.slot q = s.slot q := rfl
@[simp] theorem State.clearDirty_pixel (s : State) (q : Nat) :
    s.clearDirty.pixel q = s.pixel q := rfl

end Sys2Proof.Machine
end

