-- ==== Sys2Proof/Laws/Store.lean ====
section
/-! SUPPORT. The laws of the sparse stores, memory and the stack: a read after a write, and that every operation keeps
the canonical form. The read laws hold of every list, canonical or not. -/

namespace Sys2Proof.Machine

variable {α : Type}

theorem sparseRead_erase_same (initial : Nat → α) (m : List (Nat × α)) (a : Nat) :
    sparseRead initial (sparseErase m a) a = initial a := by
  induction m with
  | nil => rfl
  | cons c m ih =>
    by_cases h : c.1 = a
    · simpa [sparseErase, h] using ih
    · simpa [sparseErase, sparseRead, h] using ih

theorem sparseRead_erase_other (initial : Nat → α) (m : List (Nat × α)) {a b : Nat} (hb : b ≠ a) :
    sparseRead initial (sparseErase m a) b = sparseRead initial m b := by
  induction m with
  | nil => rfl
  | cons c m ih =>
    by_cases h : c.1 = a
    · have h' : ¬ c.1 = b := fun e => hb (e ▸ h)
      simp [sparseErase, sparseRead, h, ih, Ne.symm hb]
    · simp only [sparseErase, h, if_false, sparseRead, ih]

theorem mem_sparseErase {m : List (Nat × α)} {a : Nat} {c : Nat × α} :
    c ∈ sparseErase m a ↔ c ∈ m ∧ c.1 ≠ a := by
  induction m with
  | nil => simp [sparseErase]
  | cons d m ih =>
    by_cases h : d.1 = a
    · simp only [sparseErase, h, if_true, ih, List.mem_cons]
      constructor
      · exact fun ⟨hc, hn⟩ => ⟨.inr hc, hn⟩
      · rintro ⟨rfl | hc, hn⟩
        · exact absurd h hn
        · exact ⟨hc, hn⟩
    · simp only [sparseErase, h, if_false, List.mem_cons, ih]
      constructor
      · rintro (rfl | ⟨hc, hn⟩)
        · exact ⟨.inl rfl, h⟩
        · exact ⟨.inr hc, hn⟩
      · rintro ⟨rfl | hc, hn⟩
        · exact .inl rfl
        · exact .inr ⟨hc, hn⟩

theorem sparseRead_insert_same (initial : Nat → α) (m : List (Nat × α)) (a : Nat) (v : α)
    (ha : ∀ c ∈ m, c.1 ≠ a) : sparseRead initial (sparseInsert m a v) a = v := by
  induction m with
  | nil => simp [sparseInsert, sparseRead]
  | cons c m ih =>
    have hc : c.1 ≠ a := ha c (by simp)
    by_cases h : a < c.1
    · simp [sparseInsert, sparseRead, h]
    · simpa [sparseInsert, sparseRead, h, hc] using ih fun d hd => ha d (by simp [hd])

theorem sparseRead_insert_other (initial : Nat → α) (m : List (Nat × α)) {a b : Nat} (v : α) (hb : b ≠ a) :
    sparseRead initial (sparseInsert m a v) b = sparseRead initial m b := by
  induction m with
  | nil => simp [sparseInsert, sparseRead, Ne.symm hb]
  | cons c m ih =>
    by_cases h : a < c.1
    · simp [sparseInsert, sparseRead, h, Ne.symm hb]
    · simp only [sparseInsert, h, if_false, sparseRead, ih]

theorem mem_sparseInsert {m : List (Nat × α)} {a : Nat} {v : α} {c : Nat × α} :
    c ∈ sparseInsert m a v ↔ c = (a, v) ∨ c ∈ m := by
  induction m with
  | nil => simp [sparseInsert]
  | cons d m ih =>
    by_cases h : a < d.1
    · simp [sparseInsert, h]
    · simp [sparseInsert, h, ih]; tauto

/-- A read after a write: the value written at its key, and what was there before at every other key. -/
theorem sparseRead_write [DecidableEq α] (initial : Nat → α) (m : List (Nat × α)) (a b : Nat) (v : α) :
    sparseRead initial (sparseWrite initial m a v) b = if b = a then v else sparseRead initial m b := by
  by_cases hv : v = initial a
  · by_cases hb : b = a
    · subst hb; simp [sparseWrite, ← hv, sparseRead_erase_same]
    · simp [sparseWrite, ← hv, hb, sparseRead_erase_other]
  · by_cases hb : b = a
    · subst hb
      simp only [sparseWrite, hv, if_false, if_true]
      exact sparseRead_insert_same _ _ _ _ fun c hc => (mem_sparseErase.1 hc).2
    · simp [sparseWrite, hv, hb, sparseRead_insert_other, sparseRead_erase_other]

theorem sparseErase_sublist (m : List (Nat × α)) (a : Nat) : List.Sublist (sparseErase m a) m := by
  induction m with
  | nil => exact .slnil
  | cons c m ih =>
    by_cases h : c.1 = a
    · simpa [sparseErase, h] using ih.cons c
    · simpa [sparseErase, h] using ih.cons_cons c

theorem sparseInsert_pairwise {m : List (Nat × α)} {a : Nat} (v : α) (hm : m.Pairwise fun p q => p.1 < q.1)
    (ha : ∀ c ∈ m, c.1 ≠ a) : (sparseInsert m a v).Pairwise fun p q => p.1 < q.1 := by
  induction m with
  | nil => simp [sparseInsert]
  | cons c m ih =>
    have hc : c.1 ≠ a := ha c (by simp)
    obtain ⟨h1, h2⟩ := List.pairwise_cons.1 hm
    by_cases h : a < c.1
    · simp only [sparseInsert, h, if_true]
      refine List.pairwise_cons.2 ⟨fun d hd => ?_, hm⟩
      rcases List.mem_cons.1 hd with rfl | hd
      · exact h
      · exact h.trans (h1 d hd)
    · simp only [sparseInsert, h, if_false]
      refine List.pairwise_cons.2 ⟨fun d hd => ?_, ih h2 fun d hd => ha d (by simp [hd])⟩
      rcases mem_sparseInsert.1 hd with rfl | hd
      · show c.1 < a; omega
      · exact h1 d hd

/-- Writing below the bound keeps the canonical form. -/
theorem sparseWrite_wf [DecidableEq α] {initial : Nat → α} {bound : Nat} {m : List (Nat × α)} {a : Nat} (v : α)
    (hm : sparseWf initial bound m) (ha : a < bound) : sparseWf initial bound (sparseWrite initial m a v) := by
  have he : (sparseErase m a).Pairwise fun p q => p.1 < q.1 := hm.1.sublist (sparseErase_sublist m a)
  by_cases hv : v = initial a
  · simp only [sparseWrite, if_pos hv]
    exact ⟨he, fun c hc => hm.2 c (mem_sparseErase.1 hc).1⟩
  · simp only [sparseWrite, if_neg hv]
    refine ⟨sparseInsert_pairwise v he fun c hc => (mem_sparseErase.1 hc).2, fun c hc => ?_⟩
    rcases mem_sparseInsert.1 hc with rfl | hc
    · exact ⟨ha, hv⟩
    · exact hm.2 c (mem_sparseErase.1 hc).1

/-! Memory. -/

@[simp] theorem Memory.read_write (m : List Host.Cell) (a b : Nat) (v : Byte) :
    Memory.read (Memory.write m a v) b = if b = a then v else Memory.read m b :=
  sparseRead_write _ m a b v

theorem Memory.write_wf {m : List Host.Cell} {a : Nat} (v : Byte) (hm : Memory.wf m) (ha : a ≤ 4095) :
    Memory.wf (Memory.write m a v) :=
  sparseWrite_wf v hm (Nat.lt_succ_of_le ha)

/-- A byte after a run of stores: the stored one inside the run, the old one outside it. -/
theorem Memory.read_writeBytes (m : List Host.Cell) (a : Nat) (vs : List Byte) (b : Nat) :
    Memory.read (Memory.writeBytes m a vs) b =
      if a ≤ b ∧ b < a + vs.length then vs.getD (b - a) 0 else Memory.read m b := by
  induction vs generalizing m a with
  | nil =>
    have h : ¬ (a ≤ b ∧ b < a + ([] : List Byte).length) := by simp
    rw [if_neg h]; rfl
  | cons v vs ih =>
    rw [Memory.writeBytes, ih, Memory.read_write]
    rcases Nat.lt_trichotomy b a with h | rfl | h
    · have h1 : ¬ (a + 1 ≤ b ∧ b < a + 1 + vs.length) := by omega
      have h2 : ¬ (a ≤ b ∧ b < a + (v :: vs).length) := by omega
      have h3 : b ≠ a := by omega
      rw [if_neg h1, if_neg h2, if_neg h3]
    · simp
    · obtain ⟨k, rfl⟩ : ∃ k, b = a + 1 + k := ⟨b - a - 1, by omega⟩
      have h3 : a + 1 + k ≠ a := by omega
      have h4 : a + 1 + k - a = k + 1 := by omega
      by_cases hk : k < vs.length
      · rw [if_pos ⟨by omega, by omega⟩, if_pos ⟨by omega, by simp; omega⟩, h4, List.getD_cons_succ]
        congr 1; omega
      · rw [if_neg (by omega), if_neg h3, if_neg (by simp; omega)]

theorem Memory.writeBytes_wf {m : List Host.Cell} {a : Nat} (vs : List Byte) (hm : Memory.wf m)
    (ha : vs.length = 0 ∨ a + vs.length ≤ 4096) : Memory.wf (Memory.writeBytes m a vs) := by
  induction vs generalizing m a with
  | nil => exact hm
  | cons v vs ih =>
    have h : a + (vs.length + 1) ≤ 4096 := by simpa using ha
    exact ih (Memory.write_wf v hm (by omega)) (.inr (by omega))

/-! The stack. -/

@[simp] theorem Stack.read_write (m : List (Nat × Word)) (a b : Nat) (v : Word) :
    Stack.read (Stack.write m a v) b = if b = a then v else Stack.read m b :=
  sparseRead_write _ m a b v

theorem Stack.write_wf {capacity : Nat} {m : List (Nat × Word)} {a : Nat} (v : Word) (hm : Stack.wf capacity m)
    (ha : a < capacity) : Stack.wf capacity (Stack.write m a v) :=
  sparseWrite_wf v hm ha

end Sys2Proof.Machine
end

