-- ==== Sys2Proof/Laws/Ops.lean ====
section
/-! SUPPORT. One lemma per shared operation that says everything it can do: registers, the range check, block moves,
the numbers of the ALU, the framebuffer, the pixels of a sprite. -/

namespace Sys2Proof.Machine

/-! Registers (10 R25 to R29). -/

theorem nibble_toNat_lt (r : Nibble) : r.toNat < 16 := r.isLt

@[simp] theorem State.reg_setReg (s : State) (r q : Nibble) (v : Byte) :
    (s.setReg r v).reg q = if q = r then v else s.reg q := by
  by_cases h : q = r
  · subst h; simp [State.reg, State.setReg]
  · have h' : r.toNat ≠ q.toNat := fun e => h (BitVec.eq_of_toNat_eq e.symm)
    simp [State.reg, State.setReg, h, Vector.getElem_set_ne _ _ h']

@[simp] theorem State.reg_setFlag (s : State) (b : Bool) (q : Nibble) :
    (s.setFlag b).reg q = if q = 15 then (if b then 1 else 0) else s.reg q := State.reg_setReg s 15 q _

/-- The result is what remains when the destination is register 15 (10 R29). -/
@[simp] theorem State.reg_setFlagThenReg (s : State) (b : Bool) (r q : Nibble) (v : Byte) :
    (s.setFlagThenReg b r v).reg q = if q = r then v else if q = 15 then (if b then 1 else 0) else s.reg q := by
  rw [State.setFlagThenReg, State.reg_setReg, State.reg_setFlag]

@[simp] theorem State.reg_setRegsUpTo (s : State) (r q : Nibble) (values : Nat → Byte) :
    (s.setRegsUpTo r values).reg q = if q.toNat ≤ r.toNat then values q.toNat else s.reg q := by
  simp [State.reg, State.setRegsUpTo]

theorem State.length_regsUpTo (s : State) (r : Nibble) : (s.regsUpTo r).length = r.toNat + 1 := by
  have := nibble_toNat_lt r
  simp [State.regsUpTo]; omega

theorem State.getD_regsUpTo (s : State) (r q : Nibble) (h : q.toNat ≤ r.toNat) :
    (s.regsUpTo r).getD q.toNat 0 = s.reg q := by
  have := nibble_toNat_lt r
  have hq : q.toNat < (s.regsUpTo r).length := by rw [State.length_regsUpTo]; omega
  rw [List.getD_eq_getElem _ _ hq]
  simp [State.regsUpTo, State.reg]

/-! The byte and the slot of a state are the reads of its memory and stack. -/

theorem State.byteAt_storeAtIndex (s : State) (vs : List Byte) (a : Nat) :
    (s.storeAtIndex vs).byteAt a =
      if s.index.toNat ≤ a ∧ a < s.index.toNat + vs.length then vs.getD (a - s.index.toNat) 0 else s.byteAt a :=
  Memory.read_writeBytes _ _ _ _

theorem State.slot_pushPc (s : State) (k : Nat) : s.pushPc.slot k = if k = s.sp then s.pc else s.slot k :=
  Stack.read_write _ _ _ _

/-! The range check (20 R59). -/

theorem outOfRange_eq_none_iff (start len : Nat) : outOfRange start len = none ↔ len = 0 ∨ start + len - 1 ≤ 4095 := by
  unfold outOfRange Config.lastAddress
  split
  · simp; omega
  · simp; omega

theorem outOfRange_eq_some {start len : Nat} (h : 0 < len) (h' : 4095 < start + len - 1) :
    outOfRange start len = some (max start 4096) := by
  simp [outOfRange, Config.lastAddress, h, h']

theorem State.guardRange_in (s : State) (i : Instr) {len : Nat} (t : State)
    (h : len = 0 ∨ s.index.toNat + len - 1 ≤ 4095) : s.guardRange i len t = t := by
  rw [State.guardRange, (outOfRange_eq_none_iff _ _).2 h]

theorem State.guardRange_out (s : State) (i : Instr) {len : Nat} (t : State) (h : 0 < len)
    (h' : 4095 < s.index.toNat + len - 1) : s.guardRange i len t =
      s.latchFault (.memoryOutOfRange (some (encode i)) s.pcFetch (max s.index.toNat 4096)) := by
  rw [State.guardRange, outOfRange_eq_some h h']

/-- Everything the range check can do. -/
theorem State.guardRange_cases (s : State) (i : Instr) (len : Nat) (t : State) :
    (s.guardRange i len t = t ∧ (len = 0 ∨ s.index.toNat + len - 1 ≤ 4095)) ∨
    (s.guardRange i len t = s.latchFault (.memoryOutOfRange (some (encode i)) s.pcFetch (max s.index.toNat 4096)) ∧
      0 < len ∧ 4095 < s.index.toNat + len - 1) := by
  by_cases h : len = 0 ∨ s.index.toNat + len - 1 ≤ 4095
  · exact .inl ⟨s.guardRange_in i t h, h⟩
  · exact .inr ⟨s.guardRange_out i t (by omega) (by omega), by omega, by omega⟩

/-! The numbers of the ALU (40 R106, R110). -/

theorem sumByte_toNat (a b : Byte) : (sumByte a b).toNat = (a.toNat + b.toNat) % 256 := by simp [sumByte]

theorem differenceByte_toNat (a b : Byte) :
    ((differenceByte a b).toNat : Int) = ((a.toNat : Int) - (b.toNat : Int)) % 256 := by
  rw [differenceByte, BitVec.toNat_ofInt]; omega

theorem halfByte_toNat (a : Byte) : (halfByte a).toNat = a.toNat / 2 := by simp [halfByte]; omega

theorem doubleByte_toNat (a : Byte) : (doubleByte a).toNat = a.toNat * 2 % 256 := by simp [doubleByte]

theorem lowBitFlag_eq (a : Byte) : lowBitFlag a = decide (a.toNat % 2 = 1) := by
  simp [lowBitFlag, BitVec.getLsbD, Nat.testBit_zero]

theorem highBitFlag_eq (a : Byte) : highBitFlag a = decide (a.toNat / 128 = 1) := by
  have := a.isLt
  simp [highBitFlag, BitVec.getLsbD, Nat.testBit_eq_decide_div_mod_eq]
  omega

/-! The operand forms as numbers (30 R76, 41 R114, R120, 42 R127, R128). -/

@[simp] theorem addressWord_toNat (nnn : Addr12) : (addressWord nnn).toNat = nnn.toNat := by
  have := nnn.isLt
  simp [addressWord]; omega

theorem State.offsetTarget_toNat (s : State) (nnn : Addr12) :
    (s.offsetTarget nnn).toNat = nnn.toNat + (s.reg 0).toNat := by
  have := nnn.isLt
  have := (s.reg 0).isLt
  rw [State.offsetTarget, BitVec.toNat_ofNat]; omega

theorem indexPlus_toNat (index : Word) (v : Byte) :
    (indexPlus index v).toNat = (index.toNat + v.toNat) % 65536 := BitVec.toNat_ofNat _ _

theorem glyphAddress_toNat (v : Byte) : (glyphAddress v).toNat = 5 * (v.toNat % 16) := by
  rw [glyphAddress, BitVec.toNat_ofNat, Memory.fontBase]; omega

@[simp] theorem keyByte_toNat (k : Nibble) : (keyByte k).toNat = k.toNat := by
  have := nibble_toNat_lt k
  simp [keyByte]; omega

/-- A key matches iff there is one and the whole register equals its code (41 R120). -/
theorem State.keyMatches_iff (s : State) (x : Nibble) :
    s.keyMatches x = true ↔ s.key.map BitVec.toNat = some (s.reg x).toNat := by
  unfold State.keyMatches
  cases s.key <;> simp [← BitVec.toNat_inj]

/-! The framebuffer (10 R37, 43 R133). -/

theorem Bitmap.get_toggle (fb : Bitmap) {i : Nat} (hi : i < 2048) (j : Nat) :
    Bitmap.get (Bitmap.toggle fb i) j = (Bitmap.get fb j ^^ decide (j = i)) := by
  have h32 : i / 64 < 32 := by omega
  by_cases hr : j / 64 = i / 64
  · have hset : (fb.setIfInBounds (i / 64) (fb[i / 64]?.getD 0 ^^^ BitVec.twoPow 64 (i % 64)))[j / 64]? =
        some (fb[i / 64]?.getD 0 ^^^ BitVec.twoPow 64 (i % 64)) := by
      simp [hr, h32]
    have e : (j = i) ↔ (i % 64 = j % 64) := by omega
    rw [Bitmap.get, Bitmap.toggle, hset, Bitmap.get, Option.getD_some, BitVec.getLsbD_xor, BitVec.getLsbD_twoPow, hr]
    simp [e, Nat.mod_lt]
  · have hset : (fb.setIfInBounds (i / 64) (fb[i / 64]?.getD 0 ^^^ BitVec.twoPow 64 (i % 64)))[j / 64]? =
        fb[j / 64]? := by
      rw [Vector.getElem?_setIfInBounds_ne]; omega
    have e : j ≠ i := by rintro rfl; exact hr rfl
    rw [Bitmap.get, Bitmap.toggle, hset, Bitmap.get]
    simp [e]

@[simp] theorem Bitmap.get_clear (i : Nat) : Bitmap.get Bitmap.clear i = false := by
  by_cases h : i / 64 < 32 <;> simp [Bitmap.get, Bitmap.clear, h]

/-- Visiting distinct pixels turns over exactly those (43 R135). -/
theorem blit_get {px : List Nat} (hn : px.Nodup) (hb : ∀ i ∈ px, i < 2048) (fb : Bitmap) (hit : Bool) (j : Nat) :
    Bitmap.get (blit px fb hit).1 j = (Bitmap.get fb j ^^ decide (j ∈ px)) := by
  induction px generalizing fb hit with
  | nil => simp [blit]
  | cons i px ih =>
    obtain ⟨h1, h2⟩ := List.nodup_cons.1 hn
    rw [blit, ih h2 (fun k hk => hb k (by simp [hk])), Bitmap.get_toggle fb (hb i (by simp)), Bool.xor_assoc]
    by_cases hj : j = i
    · subst hj; simp [h1]
    · simp [hj]

/-- A collision is noted iff one of the distinct pixels was on before (43 R138). -/
theorem blit_hit {px : List Nat} (hn : px.Nodup) (hb : ∀ i ∈ px, i < 2048) (fb : Bitmap) (hit : Bool) :
    (blit px fb hit).2 = true ↔ hit = true ∨ ∃ i ∈ px, Bitmap.get fb i = true := by
  induction px generalizing fb hit with
  | nil => simp [blit]
  | cons i px ih =>
    obtain ⟨h1, h2⟩ := List.nodup_cons.1 hn
    have hg : ∀ j ∈ px, Bitmap.get (Bitmap.toggle fb i) j = Bitmap.get fb j := fun j hj => by
      rw [Bitmap.get_toggle fb (hb i (by simp))]
      have : j ≠ i := fun e => h1 (e ▸ hj)
      simp [this]
    rw [blit, ih h2 (fun k hk => hb k (by simp [hk]))]
    constructor
    · rintro (h | ⟨j, hj, h⟩)
      · rcases Bool.or_eq_true_iff.1 h with h | h
        · exact .inl h
        · exact .inr ⟨i, by simp, h⟩
      · exact .inr ⟨j, by simp [hj], by rw [← hg j hj]; exact h⟩
    · rintro (h | ⟨j, hj, h⟩)
      · exact .inl (by simp [h])
      · rcases List.mem_cons.1 hj with rfl | hj
        · exact .inl (by simp [h])
        · exact .inr ⟨j, hj, by rw [hg j hj]; exact h⟩

/-! The pixels of a sprite (43 R135 to R138). -/

theorem drawnRow_eq_some {p : RowPolicy} {r r' : Nat} (h : drawnRow p r = some r') : r' = r % 32 := by
  unfold drawnRow at h
  split at h
  · simp at h; omega
  · cases p <;> simp at h; omega

theorem mem_rowPixels {b : Byte} {r x0 i : Nat} :
    i ∈ rowPixels b r x0 ↔ ∃ col, col < 8 ∧ b.getLsbD (7 - col) = true ∧ i = r * 64 + (x0 + col) % 64 := by
  simp only [rowPixels, List.mem_filterMap, List.mem_range]
  constructor
  · rintro ⟨col, hc, h⟩
    split at h
    · exact ⟨col, hc, ‹_›, by simpa using h.symm⟩
    · cases h
  · rintro ⟨col, hc, hb, rfl⟩
    exact ⟨col, hc, by simp [hb]⟩

theorem rowPixels_nodup (b : Byte) (r x0 : Nat) : (rowPixels b r x0).Nodup := by
  rw [rowPixels, List.Nodup, List.pairwise_filterMap]
  refine List.nodup_range.imp_of_mem ?_
  intro c d hc hd hne i hi j hj e
  have hc := List.mem_range.1 hc
  have hd := List.mem_range.1 hd
  split at hi <;> split at hj <;> simp at hi hj
  omega

theorem mem_spriteRowPixels {p : RowPolicy} {b : Byte} {r x0 i : Nat} :
    i ∈ spriteRowPixels p b r x0 ↔ ∃ r', drawnRow p r = some r' ∧ i ∈ rowPixels b r' x0 := by
  unfold spriteRowPixels
  split <;> simp_all

/-- The pixels a draw visits are those that 43 R135 names. -/
theorem State.mem_spritePixels {s : State} {x0 y0 n i : Nat} :
    i ∈ s.spritePixels x0 y0 n ↔ s.inSprite x0 y0 n i := by
  have hrow : ∀ row r, drawnRow s.build.rowPolicy (y0 + row) = some r ↔ s.rowDrawnOn y0 row r := by
    intro row r
    unfold drawnRow State.rowDrawnOn
    by_cases h : y0 + row ≤ 31
    · have h' : ¬ 31 < y0 + row := by omega
      simp [h, h', eq_comm]
    · have h' : 31 < y0 + row := by omega
      cases hp : s.build.rowPolicy <;> simp [h, h', eq_comm]
  simp only [State.spritePixels, List.mem_flatMap, List.mem_range, mem_spriteRowPixels, mem_rowPixels,
    State.inSprite, hrow]
  constructor
  · rintro ⟨row, hr, r, hd, col, hc, hb, hi⟩
    exact ⟨row, col, r, hr, hc, hd, hb, hi⟩
  · rintro ⟨row, col, r, hr, hc, hd, hb, hi⟩
    exact ⟨row, hr, r, hd, col, hc, hb, hi⟩

theorem State.spritePixels_lt {s : State} {x0 y0 n i : Nat} (h : i ∈ s.spritePixels x0 y0 n) : i < 2048 := by
  obtain ⟨row, col, r, -, -, hd, -, rfl⟩ := State.mem_spritePixels.1 h
  have : r ≤ 31 := by rcases hd with ⟨h, rfl⟩ | ⟨_, _, rfl⟩ <;> omega
  omega

/-- No pixel is visited twice (43 R138): a sprite has at most 15 rows. -/
theorem State.spritePixels_nodup (s : State) (x0 y0 n : Nat) (hn : n < 16) : (s.spritePixels x0 y0 n).Nodup := by
  rw [State.spritePixels, List.nodup_flatMap]
  refine ⟨fun row _ => ?_, List.nodup_range.imp_of_mem fun {a b} ha hb hne i hi hj => ?_⟩
  · unfold spriteRowPixels
    split
    · exact rowPixels_nodup _ _ _
    · exact List.nodup_nil
  · have ha := List.mem_range.1 ha
    have hb := List.mem_range.1 hb
    obtain ⟨r, hr, h1⟩ := mem_spriteRowPixels.1 hi
    obtain ⟨q, hq, h2⟩ := mem_spriteRowPixels.1 hj
    obtain ⟨c, -, -, e1⟩ := mem_rowPixels.1 h1
    obtain ⟨d, -, -, e2⟩ := mem_rowPixels.1 h2
    have := drawnRow_eq_some hr
    have := drawnRow_eq_some hq
    omega

/-- What a draw that passes its checks does to the framebuffer (43 R135). -/
theorem State.pixel_drawSprite (s : State) (x0 y0 n i : Nat) (hn : n < 16) :
    (s.drawSprite (s.spritePixels x0 y0 n)).pixel i = (s.pixel i ^^ decide (i ∈ s.spritePixels x0 y0 n)) :=
  blit_get (s.spritePixels_nodup x0 y0 n hn) (fun _ h => State.spritePixels_lt h) s.fb false i

/-- What it does to the registers: the collision in register 15 (43 R138). -/
theorem State.reg_drawSprite (s : State) (px : List Nat) (q : Nibble) :
    (s.drawSprite px).reg q = if q = 15 then (if (blit px s.fb false).2 then 1 else 0) else s.reg q := by
  rw [State.drawSprite, State.reg_setFlag, State.setFb_reg]

theorem State.rowFault_iff (s : State) (y0 n : Nat) :
    s.rowFault y0 n = true ↔ 0 < n ∧ 31 < y0 + n - 1 ∧ s.build.rowPolicy = .fault := by
  simp [State.rowFault, and_assoc]

/-! Timers (44 R149). -/

theorem countDown_toNat (t : Byte) : (countDown t).toNat = t.toNat - 1 := by
  by_cases h : t = 0
  · subst h; rfl
  · have h0 : t.toNat ≠ 0 := fun e => h (BitVec.eq_of_toNat_eq e)
    have := t.isLt
    simp only [countDown, h, if_false, BitVec.toNat_sub]
    simp; omega

end Sys2Proof.Machine
end

