-- ==== Sys2Proof/Laws/PerInstr.lean ====
section
/-! SUPPORT. The family `OpcodeMap` of statements about every instruction as syntax: the word it encodes to is a word
of its own row of the opcode map (30 R85). -/

namespace Sys2Proof.Laws.OpcodeMap

/-- The word of the instruction matches the instruction's row of the opcode map. -/
def Statement (i : Instr) : Prop := i.row.matchesWord (encode i) = true

theorem cls : Statement .cls :=
  (matchesWord_FFFF _ _).2 (by rw [encode, formatA_toNat]; simp)

theorem ret : Statement .ret :=
  (matchesWord_FFFF _ _).2 (by rw [encode, formatA_toNat]; simp)

theorem jp (nnn : Addr12) : Statement (.jp nnn) :=
  (matchesWord_F000 _ _).2 (by rw [encode, formatA_toNat]; simp; omega)

theorem call (nnn : Addr12) : Statement (.call nnn) :=
  (matchesWord_F000 _ _).2 (by rw [encode, formatA_toNat]; simp; omega)

theorem seImm (x : Nibble) (nn : Byte) : Statement (.seImm x nn) :=
  (matchesWord_F000 _ _).2 (by rw [encode, formatXI_toNat]; simp; omega)

theorem sneImm (x : Nibble) (nn : Byte) : Statement (.sneImm x nn) :=
  (matchesWord_F000 _ _).2 (by rw [encode, formatXI_toNat]; simp; omega)

theorem seReg (x : Nibble) (y : Nibble) (z : Nibble) : Statement (.seReg x y z) :=
  (matchesWord_F000 _ _).2 (by rw [encode, formatXYN_toNat]; simp; omega)

theorem ldImm (x : Nibble) (nn : Byte) : Statement (.ldImm x nn) :=
  (matchesWord_F000 _ _).2 (by rw [encode, formatXI_toNat]; simp; omega)

theorem addImm (x : Nibble) (nn : Byte) : Statement (.addImm x nn) :=
  (matchesWord_F000 _ _).2 (by rw [encode, formatXI_toNat]; simp; omega)

theorem ldReg (x : Nibble) (y : Nibble) : Statement (.ldReg x y) :=
  (matchesWord_F00F _ _).2 (by rw [encode, formatXYN_toNat]; simp; omega)

theorem orReg (x : Nibble) (y : Nibble) : Statement (.orReg x y) :=
  (matchesWord_F00F _ _).2 (by rw [encode, formatXYN_toNat]; simp; omega)

theorem andReg (x : Nibble) (y : Nibble) : Statement (.andReg x y) :=
  (matchesWord_F00F _ _).2 (by rw [encode, formatXYN_toNat]; simp; omega)

theorem xorReg (x : Nibble) (y : Nibble) : Statement (.xorReg x y) :=
  (matchesWord_F00F _ _).2 (by rw [encode, formatXYN_toNat]; simp; omega)

theorem addReg (x : Nibble) (y : Nibble) : Statement (.addReg x y) :=
  (matchesWord_F00F _ _).2 (by rw [encode, formatXYN_toNat]; simp; omega)

theorem subReg (x : Nibble) (y : Nibble) : Statement (.subReg x y) :=
  (matchesWord_F00F _ _).2 (by rw [encode, formatXYN_toNat]; simp; omega)

theorem shr (x : Nibble) (y : Nibble) : Statement (.shr x y) :=
  (matchesWord_F00F _ _).2 (by rw [encode, formatXYN_toNat]; simp; omega)

theorem subnReg (x : Nibble) (y : Nibble) : Statement (.subnReg x y) :=
  (matchesWord_F00F _ _).2 (by rw [encode, formatXYN_toNat]; simp; omega)

theorem shl (x : Nibble) (y : Nibble) : Statement (.shl x y) :=
  (matchesWord_F00F _ _).2 (by rw [encode, formatXYN_toNat]; simp; omega)

theorem sneReg (x : Nibble) (y : Nibble) (z : Nibble) : Statement (.sneReg x y z) :=
  (matchesWord_F000 _ _).2 (by rw [encode, formatXYN_toNat]; simp; omega)

theorem ldI (nnn : Addr12) : Statement (.ldI nnn) :=
  (matchesWord_F000 _ _).2 (by rw [encode, formatA_toNat]; simp; omega)

theorem jpV0 (nnn : Addr12) : Statement (.jpV0 nnn) :=
  (matchesWord_F000 _ _).2 (by rw [encode, formatA_toNat]; simp; omega)

theorem rnd (x : Nibble) (nn : Byte) : Statement (.rnd x nn) :=
  (matchesWord_F000 _ _).2 (by rw [encode, formatXI_toNat]; simp; omega)

theorem drw (x : Nibble) (y : Nibble) (n : Nibble) : Statement (.drw x y n) :=
  (matchesWord_F000 _ _).2 (by rw [encode, formatXYN_toNat]; simp; omega)

theorem skp (x : Nibble) : Statement (.skp x) :=
  (matchesWord_F0FF _ _).2 (by rw [encode, formatXI_toNat]; simp; omega)

theorem sknp (x : Nibble) : Statement (.sknp x) :=
  (matchesWord_F0FF _ _).2 (by rw [encode, formatXI_toNat]; simp; omega)

theorem ldVxDt (x : Nibble) : Statement (.ldVxDt x) :=
  (matchesWord_F0FF _ _).2 (by rw [encode, formatXI_toNat]; simp; omega)

theorem ldVxK (x : Nibble) : Statement (.ldVxK x) :=
  (matchesWord_F0FF _ _).2 (by rw [encode, formatXI_toNat]; simp; omega)

theorem ldDtVx (x : Nibble) : Statement (.ldDtVx x) :=
  (matchesWord_F0FF _ _).2 (by rw [encode, formatXI_toNat]; simp; omega)

theorem ldStVx (x : Nibble) : Statement (.ldStVx x) :=
  (matchesWord_F0FF _ _).2 (by rw [encode, formatXI_toNat]; simp; omega)

theorem addI (x : Nibble) : Statement (.addI x) :=
  (matchesWord_F0FF _ _).2 (by rw [encode, formatXI_toNat]; simp; omega)

theorem ldF (x : Nibble) : Statement (.ldF x) :=
  (matchesWord_F0FF _ _).2 (by rw [encode, formatXI_toNat]; simp; omega)

theorem ldB (x : Nibble) : Statement (.ldB x) :=
  (matchesWord_F0FF _ _).2 (by rw [encode, formatXI_toNat]; simp; omega)

theorem stRegs (x : Nibble) : Statement (.stRegs x) :=
  (matchesWord_F0FF _ _).2 (by rw [encode, formatXI_toNat]; simp; omega)

theorem ldRegs (x : Nibble) : Statement (.ldRegs x) :=
  (matchesWord_F0FF _ _).2 (by rw [encode, formatXI_toNat]; simp; omega)

end Sys2Proof.Laws.OpcodeMap
end

