-- ==== Sys2Proof/Laws/Step.lean ====
section
/-! SUPPORT. Everything a step can do, said once, and the frame as a relation: the lemmas from which invariants and
whole-machine rules are derived. -/

namespace Sys2Proof.Machine

theorem State.canFetch_iff (s : State) : s.canFetch = true ↔ s.pc.toNat ≤ 4094 := by
  simp [State.canFetch, Config.lastAddress]; omega

/-- Everything a step can do before the execute part (41 R111). -/
theorem State.beforeExecute_cases (s : State) :
    (s.fault ≠ none ∧ s.beforeExecute = (s, none)) ∨
    (s.fault = none ∧ (∃ r, s.run = .awaitingKey r ∧ s.beforeExecute = (s.resolveKeyWait r, none))) ∨
    (s.ready ∧ 4094 < s.pc.toNat ∧ s.beforeExecute = (s.fetchFault, none)) ∨
    (s.ready ∧ s.pc.toNat ≤ 4094 ∧ (∃ e, decodeWord (s.wordAt s.pc.toNat) = .error e) ∧
      s.beforeExecute = (s.skip.latchFault (.unknownInstruction (s.wordAt s.pc.toNat) s.pc), none)) ∨
    (s.ready ∧ s.pc.toNat ≤ 4094 ∧ ∃ i, decodeWord (s.wordAt s.pc.toNat) = .ok i ∧
      s.beforeExecute = (s.skip, some i)) := by
  by_cases hf : s.fault = none
  · cases hr : s.run with
    | awaitingKey r => exact .inr (.inl ⟨hf, r, rfl, by simp [State.beforeExecute, hf, hr]⟩)
    | running =>
      by_cases hp : s.pc.toNat ≤ 4094
      · have hc := (State.canFetch_iff s).2 hp
        cases hd : decodeWord (s.wordAt s.pc.toNat) with
        | error e =>
          exact .inr (.inr (.inr (.inl ⟨⟨hf, hr⟩, hp, ⟨e, rfl⟩, by
            simp [State.beforeExecute, State.fetchDecode, hf, hr, hc, hd]⟩)))
        | ok i =>
          exact .inr (.inr (.inr (.inr ⟨⟨hf, hr⟩, hp, i, rfl, by
            simp [State.beforeExecute, State.fetchDecode, hf, hr, hc, hd]⟩)))
      · have hc := Bool.eq_false_iff.2 (mt (State.canFetch_iff s).1 hp)
        exact .inr (.inr (.inl ⟨⟨hf, hr⟩, by omega, by simp [State.beforeExecute, hf, hr, hc]⟩))
  · exact .inl ⟨hf, by simp [State.beforeExecute, Option.isSome_iff_ne_none.2 hf]⟩

/-- Everything a step can do: five cases, of which only the last executes an instruction. -/
theorem step_cases {s t : State} (h : step s = .next t) :
    (s.fault ≠ none ∧ t = s) ∨
    (s.fault = none ∧ ∃ r, s.run = .awaitingKey r ∧ t = s.resolveKeyWait r) ∨
    (s.ready ∧ 4094 < s.pc.toNat ∧ t = s.fetchFault) ∨
    (s.ready ∧ s.pc.toNat ≤ 4094 ∧ (∃ e, decodeWord (s.wordAt s.pc.toNat) = .error e) ∧
      t = s.skip.latchFault (.unknownInstruction (s.wordAt s.pc.toNat) s.pc)) ∨
    (s.ready ∧ s.pc.toNat ≤ 4094 ∧ ∃ i, decodeWord (s.wordAt s.pc.toNat) = .ok i ∧ exec i s.skip = .next t) := by
  rcases s.beforeExecute_cases with ⟨h1, h2⟩ | ⟨h1, r, h2, h3⟩ | ⟨h1, h2, h3⟩ | ⟨h1, h2, h3, h4⟩ |
    ⟨h1, h2, i, h3, h4⟩
  · rw [step, h2] at h; exact .inl ⟨h1, by simpa using h.symm⟩
  · rw [step, h3] at h; exact .inr (.inl ⟨h1, r, h2, by simpa using h.symm⟩)
  · rw [step, h3] at h; exact .inr (.inr (.inl ⟨h1, h2, by simpa using h.symm⟩))
  · rw [step, h4] at h; exact .inr (.inr (.inr (.inl ⟨h1, h2, h3, by simpa using h.symm⟩)))
  · rw [step, h4] at h; exact .inr (.inr (.inr (.inr ⟨h1, h2, i, h3, h⟩)))

/-- What the decoder answers over the two bytes of a fetch is what it answers for their word. -/
theorem decodeBytes_two (hi lo : Byte) (i : Instr) :
    decodeBytes [hi, lo] = .ok (i, []) ↔ decodeWord (wordOfBytes hi lo) = .ok i := by
  cases h : decodeWord (wordOfBytes hi lo) <;> simp [decodeBytes, h, Except.map]

/-! The frame relation. -/

theorem Part.same_refl (p : Part) (s : State) : p.same s s := by cases p <;> simp [Part.same]

theorem Part.same_trans {p : Part} {s t u : State} (h : p.same s t) (h' : p.same t u) : p.same s u := by
  cases p <;> simp_all [Part.same]

theorem State.frame_trans {cs ds : List Part} {ws vs : List Nibble} {s t u : State} (h : State.frame cs ws s t)
    (h' : State.frame ds vs t u) : State.frame (cs ++ ds) (ws ++ vs) s u := by
  refine ⟨fun r hr => ?_, fun p hp => ?_⟩
  · simp only [List.mem_append, not_or] at hr
    rw [h'.1 r hr.2, h.1 r hr.1]
  · simp only [List.mem_append, not_or] at hp
    exact Part.same_trans (h.2 p hp.1) (h'.2 p hp.2)

/-- A frame may be weakened to a larger one. -/
theorem State.frame_mono {cs ds : List Part} {ws vs : List Nibble} {s t : State} (h : State.frame cs ws s t)
    (hc : cs ⊆ ds) (hw : ws ⊆ vs) : State.frame ds vs s t :=
  ⟨fun r hr => h.1 r fun hm => hr (hw hm), fun p hp => h.2 p fun hm => hp (hc hm)⟩

theorem mem_nibblesUpTo {x r : Nibble} : r ∈ nibblesUpTo x ↔ r.toNat ≤ x.toNat := by
  have hx := nibble_toNat_lt x
  simp only [nibblesUpTo, List.mem_map, List.mem_range]
  constructor
  · rintro ⟨k, hk, rfl⟩
    rw [BitVec.toNat_ofNat]; omega
  · exact fun h => ⟨r.toNat, by omega, by simp⟩

end Sys2Proof.Machine
end

