-- ==== Sys2Proof/Tests/Slice0.lean ====
section
/-! SUPPORT. Tests of one step each, with results taken from spec 95 (its vector is named in each comment), the
ill-formed terms that the checks of WellFormed refuse, the decoding of a word of every instruction, and for every
obligation with hypotheses a state that meets them. -/

namespace Sys2Proof.Tests

open Sys2Proof Sys2Proof.Machine

/-! ## A small state builder -/

/-- The reset machine of a build with two stack slots and the policy `wrap`. -/
def boot : State := { State.reset with build := ⟨2, .wrap⟩ }

/-- `boot` with some registers set. -/
def withRegs (rs : List (Nibble × Byte)) : State := rs.foldl (fun s p => s.setReg p.1 p.2) boot

/-- The state with bytes stored from an address. -/
def withBytes (a : Nat) (bs : List Byte) (s : State) : State := { s with mem := Memory.writeBytes s.mem a bs }

/-- The state after one step on the word `w`. -/
def run (w : Nat) (s : State) : State := (s.withFetchWord 16 w).after .step

/-- A state about to draw the sprite of `bs` (at 0x300) with `V0 = x` and `V1 = y`. -/
def drawing (x y : Byte) (bs : List Byte) : State :=
  withBytes 0x300 bs { withRegs [(0, x), (1, y)] with index := 0x300 }

/-! ## WellFormed: what its checks refuse -/

/-- 30 R79, R87 (E3). -/
theorem test_legalWord_refuses_family0 : legalWord 0x0000 = false ∧ legalWord 0x01E0 = false := by decide
/-- 30 R80, R87 (E4). -/
theorem test_legalWord_refuses_family8 : legalWord 0x8008 = false ∧ legalWord 0x800F = false := by decide
/-- 30 R81, R87 (E5). -/
theorem test_legalWord_refuses_familyE : legalWord 0xE000 = false ∧ legalWord 0xE09F = false := by decide
/-- 30 R82, R87 (E6). -/
theorem test_legalWord_refuses_familyF : legalWord 0xF000 = false ∧ legalWord 0xF166 = false := by decide
/-- 30 R83: a nonzero ignored nibble is not the canonical form. -/
theorem test_canonical_refuses_low_nibble :
    (Instr.seReg 1 2 7).canonical = false ∧ (Instr.sneReg 1 2 1).canonical = false := by decide
/-- 30 R83: the form an assembler emits is canonical. -/
theorem test_canonical_accepts : (Instr.seReg 1 2 0).canonical = true ∧ legalWord 0x5127 = true := by decide

/-! ## Decoding: words written out from the encodings of 30 R85 and 95 sections 1.3, 2.1 -/

theorem test_decode_family0 : decodeWord 0b0000000011100000 = .ok .cls ∧ decodeWord 0b0000000011101110 = .ok .ret := by
  decide
theorem test_decode_jp : decodeWord 0b0001101010111100 = .ok (.jp 0xABC) := by decide
theorem test_decode_call : decodeWord 0b0010001000000000 = .ok (.call 0x200) := by decide
theorem test_decode_seImm : decodeWord 0b0011000100110011 = .ok (.seImm 1 0x33) := by decide
theorem test_decode_sneImm : decodeWord 0b0100000100110100 = .ok (.sneImm 1 0x34) := by decide
theorem test_decode_seReg : decodeWord 0b0101101010110111 = .ok (.seReg 0xA 0xB 7) := by decide
theorem test_decode_ldImm : decodeWord 0b0110000000000101 = .ok (.ldImm 0 5) := by decide
theorem test_decode_addImm : decodeWord 0b0111001000000001 = .ok (.addImm 2 1) := by decide
theorem test_decode_family8_logic :
    decodeWord 0b1000010100110000 = .ok (.ldReg 5 3) ∧ decodeWord 0b1000010100110001 = .ok (.orReg 5 3) ∧
    decodeWord 0b1000010100110010 = .ok (.andReg 5 3) ∧ decodeWord 0b1000010100110011 = .ok (.xorReg 5 3) := by decide
theorem test_decode_family8_arithmetic :
    decodeWord 0b1000000000010100 = .ok (.addReg 0 1) ∧ decodeWord 0b1000010100110101 = .ok (.subReg 5 3) ∧
    decodeWord 0b1000010100110110 = .ok (.shr 5 3) ∧ decodeWord 0b1000010100110111 = .ok (.subnReg 5 3) ∧
    decodeWord 0b1000010100111110 = .ok (.shl 5 3) := by decide
theorem test_decode_sneReg : decodeWord 0b1001101010110001 = .ok (.sneReg 0xA 0xB 1) := by decide
theorem test_decode_ldI : decodeWord 0b1010001000001000 = .ok (.ldI 0x208) := by decide
theorem test_decode_jpV0 : decodeWord 0b1011001100000000 = .ok (.jpV0 0x300) := by decide
theorem test_decode_rnd : decodeWord 0b1100001100001111 = .ok (.rnd 3 0x0F) := by decide
theorem test_decode_drw : decodeWord 0b1101010110100011 = .ok (.drw 5 0xA 3) := by decide
theorem test_decode_familyE :
    decodeWord 0b1110000110011110 = .ok (.skp 1) ∧ decodeWord 0b1110000110100001 = .ok (.sknp 1) := by decide
theorem test_decode_familyF_timers_keys :
    decodeWord 0b1111001100000111 = .ok (.ldVxDt 3) ∧ decodeWord 0b1111010000001010 = .ok (.ldVxK 4) ∧
    decodeWord 0b1111001100010101 = .ok (.ldDtVx 3) ∧ decodeWord 0b1111001100011000 = .ok (.ldStVx 3) := by decide
theorem test_decode_familyF_index_memory :
    decodeWord 0b1111001100011110 = .ok (.addI 3) ∧ decodeWord 0b1111001000101001 = .ok (.ldF 2) ∧
    decodeWord 0b1111001100110011 = .ok (.ldB 3) ∧ decodeWord 0b1111001001010101 = .ok (.stRegs 2) ∧
    decodeWord 0b1111001001100101 = .ok (.ldRegs 2) := by decide
/-- E11: the first byte is the high one. -/
theorem test_decode_bytes_big_endian :
    decodeBytes [0x12, 0x34, 0x56] = .ok (.jp 0x234, [0x56]) ∧ decodeTableWord 16 0x1234 = some (.jp 0x234) := by
  decide
/-- E3 to E6. -/
theorem test_decode_illegal :
    decodeWord 0x0FFF = .error (.unknownInstruction 0x0FFF) ∧ decodeWord 0x8ABD = .error (.unknownInstruction 0x8ABD) ∧
    decodeWord 0xE19D = .error (.unknownInstruction 0xE19D) ∧ decodeTableWord 16 0xF075 = none ∧
    decodeBytes [0x12] = .error .truncated := by decide

/-! ## ALU and register instructions (95 section 2.2) -/

/-- A1, A2. -/
theorem test_ldImm : (run 0x6AFF boot).reg 10 = 0xFF ∧ (run 0x6F01 boot).reg 15 = 1 := by decide
/-- A3: no flag on a wrap. -/
theorem test_addImm_wraps :
    (run 0x7201 (withRegs [(2, 0xFF), (15, 7)])).reg 2 = 0 ∧ (run 0x7201 (withRegs [(2, 0xFF), (15, 7)])).reg 15 = 7 := by
  decide
/-- A6. -/
theorem test_addImm : (run 0x73F0 (withRegs [(3, 0xF0)])).reg 3 = 0xE0 := by decide
/-- A7. -/
theorem test_ldReg : (run 0x8010 (withRegs [(1, 0x12)])).reg 0 = 0x12 := by decide
/-- A9. -/
theorem test_orReg :
    (run 0x8011 (withRegs [(0, 0xF0), (1, 0x0F), (15, 7)])).reg 0 = 0xFF ∧
    (run 0x8011 (withRegs [(0, 0xF0), (1, 0x0F), (15, 7)])).reg 15 = 7 := by decide
/-- A10. -/
theorem test_andReg : (run 0x8012 (withRegs [(0, 0xF0), (1, 0x3C)])).reg 0 = 0x30 := by decide
/-- A11. -/
theorem test_xorReg : (run 0x8013 (withRegs [(0, 0xFF), (1, 0x0F)])).reg 0 = 0xF0 := by decide
/-- A13, A16. -/
theorem test_addReg :
    (run 0x8014 (withRegs [(0, 200), (1, 100)])).reg 0 = 44 ∧ (run 0x8014 (withRegs [(0, 200), (1, 100)])).reg 15 = 1 ∧
    (run 0x8014 (withRegs [(0, 128), (1, 127)])).reg 15 = 0 := by decide
/-- A18, A19: the flag first, the result last; operands before both. -/
theorem test_addReg_flag_register :
    (run 0x8F14 (withRegs [(15, 200), (1, 100)])).reg 15 = 44 ∧ (run 0x80F4 (withRegs [(0, 1), (15, 255)])).reg 0 = 0 ∧
    (run 0x80F4 (withRegs [(0, 1), (15, 255)])).reg 15 = 1 := by decide
/-- A22, A23: strict comparison. -/
theorem test_subReg :
    (run 0x8015 (withRegs [(0, 3), (1, 10)])).reg 0 = 249 ∧ (run 0x8015 (withRegs [(0, 3), (1, 10)])).reg 15 = 0 ∧
    (run 0x8015 (withRegs [(0, 5), (1, 5), (15, 9)])).reg 15 = 0 := by decide
/-- A28. -/
theorem test_subReg_reads_first :
    (run 0x80F5 (withRegs [(0, 10), (15, 3)])).reg 0 = 7 ∧ (run 0x80F5 (withRegs [(0, 10), (15, 3)])).reg 15 = 1 := by
  decide
/-- A30, A32: the `Y` field is ignored. -/
theorem test_shr :
    (run 0x8016 (withRegs [(0, 4), (1, 0xFF)])).reg 0 = 2 ∧ (run 0x8006 (withRegs [(0, 0xFF)])).reg 0 = 0x7F ∧
    (run 0x8006 (withRegs [(0, 0xFF)])).reg 15 = 1 := by decide
/-- A34. -/
theorem test_shr_flag_register : (run 0x8F06 (withRegs [(15, 3)])).reg 15 = 1 := by decide
/-- A36, A38. -/
theorem test_subnReg :
    (run 0x8017 (withRegs [(0, 3), (1, 10)])).reg 0 = 7 ∧ (run 0x8017 (withRegs [(0, 3), (1, 10)])).reg 15 = 1 ∧
    (run 0x8017 (withRegs [(0, 9), (1, 9)])).reg 15 = 0 := by decide
/-- A42. -/
theorem test_shl :
    (run 0x801E (withRegs [(0, 0xFF)])).reg 0 = 0xFE ∧ (run 0x801E (withRegs [(0, 0xFF)])).reg 15 = 1 := by decide
/-- A43. -/
theorem test_shl_flag_register : (run 0x8F0E (withRegs [(15, 0x81)])).reg 15 = 2 := by decide
/-- A44: the byte is the free one, whatever it is, and the draw is used up (40 R109). -/
theorem test_rnd :
    (run 0xC30F boot).reg 3 = Config.drawByte 0 &&& 0x0F ∧ (run 0xC30F boot).draws = 1 := ⟨rfl, rfl⟩
/-- A45. -/
theorem test_rnd_zero_mask : (run 0xC300 (withRegs [(3, 9)])).reg 3 = 0 :=
  (BitVec.and_zero : Config.drawByte 0 &&& 0#8 = 0#8)

/-! ## Control transfer (95 section 2.3) -/

/-- B1. -/
theorem test_jp : (run 0x1ABC boot).pc = 0xABC := by decide
/-- B4. -/
theorem test_call :
    (run 0x2ABC boot).slot 0 = 0x202 ∧ (run 0x2ABC boot).sp = 1 ∧ (run 0x2ABC boot).pc = 0xABC := by decide
/-- B5. -/
theorem test_call_overflow :
    (run 0x2ABC { boot with sp := 2 }).fault = some (.stackOverflow 0x2ABC 0x200) ∧
    (run 0x2ABC { boot with sp := 2 }).pc = 0x202 := by decide
/-- B6: the slot keeps its value. -/
theorem test_ret :
    (run 0x00EE { boot with pc := 0x20C, sp := 1, stack := [(0, 0x206)] }).pc = 0x206 ∧
    (run 0x00EE { boot with pc := 0x20C, sp := 1, stack := [(0, 0x206)] }).slot 0 = 0x206 := by decide
/-- B7. -/
theorem test_ret_underflow : (run 0x00EE boot).fault = some (.stackUnderflow 0x00EE 0x200) := by decide
/-- B9: no 12-bit wrap. -/
theorem test_jpV0 : (run 0xBFFF (withRegs [(0, 0xFF)])).pc = 0x10FE := by decide
/-- B10, B11. -/
theorem test_seImm :
    (run 0x3133 (withRegs [(1, 0x33)])).pc = 0x204 ∧ (run 0x3134 (withRegs [(1, 0x33)])).pc = 0x202 := by decide
/-- B12, B13. -/
theorem test_sneImm :
    (run 0x4133 (withRegs [(1, 0x33)])).pc = 0x202 ∧ (run 0x4134 (withRegs [(1, 0x33)])).pc = 0x204 := by decide
/-- B14, B15; the low nibble is ignored (E7). -/
theorem test_seReg :
    (run 0x512A (withRegs [(1, 7), (2, 7)])).pc = 0x204 ∧ (run 0x5120 (withRegs [(1, 7), (2, 8)])).pc = 0x202 := by decide
/-- B17, B18; the low nibble is ignored (E8). -/
theorem test_sneReg :
    (run 0x912A (withRegs [(1, 7), (2, 8)])).pc = 0x204 ∧ (run 0x9330 boot).pc = 0x202 := by decide
/-- B20, B21, B22. -/
theorem test_skp :
    (run 0xE19E (withRegs [(1, 5)])).pc = 0x202 ∧ (run 0xE19E { withRegs [(1, 5)] with key := some 5 }).pc = 0x204 ∧
    (run 0xE19E { withRegs [(1, 0x15)] with key := some 5 }).pc = 0x202 := by decide
/-- B23, B24, B25. -/
theorem test_sknp :
    (run 0xE1A1 (withRegs [(1, 5)])).pc = 0x204 ∧ (run 0xE1A1 { withRegs [(1, 5)] with key := some 5 }).pc = 0x202 ∧
    (run 0xE1A1 { withRegs [(1, 0x15)] with key := some 5 }).pc = 0x204 := by decide

/-! ## Index register and memory (95 section 2.4) -/

/-- M1. -/
theorem test_ldI : (run 0xAFFF boot).index = 0x0FFF := by decide
/-- M2, M3. -/
theorem test_addI :
    (run 0xF01E { withRegs [(0, 1)] with index := 0x0FFF }).index = 0x1000 ∧
    (run 0xF01E { withRegs [(0, 1)] with index := 0xFFFF }).index = 0 := by decide
/-- M5, M6. -/
theorem test_ldF :
    (run 0xF229 (withRegs [(2, 0x1A)])).index = 0x32 ∧ (run 0xF229 (withRegs [(2, 0xFF)])).index = 0x4B := by decide
/-- M7. -/
theorem test_ldB :
    (run 0xF033 { withRegs [(0, 254)] with index := 0x300 }).byteAt 0x300 = 2 ∧
    (run 0xF033 { withRegs [(0, 254)] with index := 0x300 }).byteAt 0x301 = 5 ∧
    (run 0xF033 { withRegs [(0, 254)] with index := 0x300 }).byteAt 0x302 = 4 := by decide
/-- M12, M13. -/
theorem test_ldB_range :
    (run 0xF033 { withRegs [(0, 254)] with index := 0xFFD }).byteAt 0xFFF = 4 ∧
    (run 0xF033 { boot with index := 0xFFE }).fault = some (.memoryOutOfRange (some 0xF033) 0x200 4096) := by decide
/-- M15. -/
theorem test_stRegs :
    (run 0xF255 { withRegs [(0, 0xAA), (1, 0xBB), (2, 0xCC), (3, 0xDD)] with index := 0x400 }).byteAt 0x402 = 0xCC ∧
    (run 0xF255 { withRegs [(0, 0xAA), (1, 0xBB), (2, 0xCC), (3, 0xDD)] with index := 0x400 }).byteAt 0x403 = 0 ∧
    (run 0xF255 { withRegs [(0, 0xAA)] with index := 0x400 }).index = 0x400 := by decide
/-- M18. -/
theorem test_stRegs_range :
    (run 0xFF55 { boot with index := 0xFF1 }).fault = some (.memoryOutOfRange (some 0xFF55) 0x200 4096) := by decide
/-- M19. -/
theorem test_ldRegs :
    (run 0xF265 (withBytes 0x400 [1, 2, 3, 4] { withRegs [(3, 9)] with index := 0x400 })).reg 2 = 3 ∧
    (run 0xF265 (withBytes 0x400 [1, 2, 3, 4] { withRegs [(3, 9)] with index := 0x400 })).reg 3 = 9 := by decide
/-- M21, M23. -/
theorem test_ldRegs_edges :
    (run 0xF165 { boot with index := 0xFFF }).fault = some (.memoryOutOfRange (some 0xF165) 0x200 4096) ∧
    (run 0xF465 boot).reg 4 = 0xF0 ∧ (run 0xF465 boot).reg 1 = 0x90 := by decide

/-! ## Display (95 section 2.5) -/

/-- G1. -/
theorem test_cls :
    (run 0x00E0 { boot with fb := Vector.replicate 32 0xFF }).pixel 7 = false ∧ (run 0x00E0 boot).dirty = true := by decide
/-- G5: columns wrap on the same row. -/
theorem test_drw_columns_wrap :
    (run 0xD011 (drawing 255 0 [0xC0])).pixel 63 = true ∧ (run 0xD011 (drawing 255 0 [0xC0])).pixel 0 = true ∧
    (run 0xD011 (drawing 255 0 [0xC0])).pixel 64 = false := by decide
/-- G6, G7: collision. -/
theorem test_drw_collision :
    (run 0xD011 { drawing 0 0 [0x80] with fb := Vector.replicate 32 1 }).reg 15 = 1 ∧
    (run 0xD011 { drawing 0 0 [0x40] with fb := Vector.replicate 32 1 }).reg 15 = 0 := by decide

/-! ## Timers and keys (95 section 2.6) -/

/-- T1. -/
theorem test_ldVxDt : (run 0xF307 { boot with dt := 0x3C }).reg 3 = 0x3C := by decide
/-- T2. -/
theorem test_ldDtVx : (run 0xF315 (withRegs [(3, 60)])).dt = 60 := by decide
/-- T3. -/
theorem test_ldStVx : (run 0xF018 (withRegs [(0, 5)])).st = 5 := by decide
/-- T8, T9. -/
theorem test_ldVxK :
    (run 0xF40A { boot with key := some 7 }).reg 4 = 7 ∧ (run 0xF40A boot).run = .awaitingKey 4 ∧
    (run 0xF40A boot).pc = 0x202 := by decide
/-- T11: the wait is resolved without a fetch. -/
theorem test_key_wait_resolves :
    (State.after { boot with run := .awaitingKey 4, key := some 0xC } .step).reg 4 = 0xC ∧
    (State.after { boot with run := .awaitingKey 4, key := some 0xC } .step).pc = 0x200 := by decide
/-- T6, T7. -/
theorem test_tick :
    (State.after { boot with dt := 1, st := 255 } .tick).dt = 0 ∧
    (State.after { boot with dt := 1, st := 255 } .tick).st = 254 := by decide

/-! ## Faults, fetch and load (95 sections 2.7, 2.8) -/

/-- E2. -/
theorem test_unknown_instruction :
    (run 0x0000 boot).fault = some (.unknownInstruction 0 0x200) ∧ (run 0x0000 boot).pc = 0x202 := by decide
/-- F4. -/
theorem test_fetch_fault :
    (State.after { boot with pc := 0xFFF } .step).fault = some (.memoryOutOfRange none 0xFFF 4096) ∧
    (State.after { boot with pc := 0xFFF } .step).pc = 0xFFF := by decide
/-- F5: 4094 is the last legal fetch address. -/
theorem test_last_fetch : (run 0x1200 { boot with pc := 0xFFE }).pc = 0x200 := by decide
/-- 70 R180. -/
theorem test_load :
    (boot.after (.load [0x60, 0x05])).byteAt 512 = 0x60 ∧ (boot.after (.load [0x60, 0x05])).byteAt 513 = 0x05 ∧
    (boot.after (.load [0x60, 0x05])).pc = 512 := by decide
/-- 20 R63: the first and the last byte of the font, and the byte after it. -/
theorem test_font : boot.byteAt 0 = 0xF0 ∧ boot.byteAt 79 = 0x80 ∧ boot.byteAt 80 = 0 := by decide

/-- The numbers of 60 R155; `load` of 3585 bytes tells the host 6 and the two sizes (L2). -/
theorem test_fault_codes :
    (Fault.unknownInstruction 0 0x200).code = 1 ∧ (Fault.memoryOutOfRange none 0xFFF 4096).code = 4 ∧
    (Fault.memoryOutOfRange none 0xFFF 4096).info = some 4096 ∧ (Refusal.programTooLarge 3585 3584).code = some 6 ∧
    (Refusal.programTooLarge 3585 3584).info = some (3585, 3584) := by decide

/-! ## States that meet the hypotheses of the obligations -/

theorem witness_EncodeOfDecode : decodeWord 0x8A76 = .ok (.shr 0xA 7) := by decide

theorem witness_DecodeFollowsOpcodeMap :
    (⟨0xF00F, 0x8006⟩ : OpcodeRow) ∈ opcodeRows ∧ (0x8A76 : Word) &&& 0xF00F = 0x8006 := by decide

/-- One word for each family, at the end of its range. -/
theorem witness_IllegalWordsByFamily :
    decodeWord 0x00E1 = .error (.unknownInstruction 0x00E1) ∧ decodeWord 0x800F = .error (.unknownInstruction 0x800F) ∧
    decodeWord 0xEFFF = .error (.unknownInstruction 0xEFFF) ∧ decodeWord 0xFFFF = .error (.unknownInstruction 0xFFFF) := by
  decide

/-- A word at the last address it can be fetched from. -/
def lastWord (hi lo : Byte) : State := withBytes 4094 [hi, lo] { boot with pc := 4094 }

theorem witness_StepRunsDecodedInstruction :
    (lastWord 0x60 0x05).ready ∧ (lastWord 0x60 0x05).pc.toNat ≤ 4094 ∧
    decodeBytes [(lastWord 0x60 0x05).byteAt (lastWord 0x60 0x05).pc.toNat,
      (lastWord 0x60 0x05).byteAt ((lastWord 0x60 0x05).pc.toNat + 1)] = .ok (.ldImm 0 5, []) := by
  refine ⟨⟨?_, ?_⟩, ?_, ?_⟩ <;> decide

/-- A state with a latched fault. -/
def faulted : State := { boot with pc := 0x202, fault := some (.unknownInstruction 0 0x200) }

/-- A state that awaits a key for register 4. -/
def awaiting : State := { boot with run := .awaitingKey 4 }

theorem witness_StepAlgorithm_latched : faulted.fault = some (.unknownInstruction 0 0x200) := by decide

theorem witness_StepAlgorithm_waiting : awaiting.fault = none ∧ awaiting.run = .awaitingKey 4 ∧ awaiting.key = none := by
  decide

theorem witness_StepAlgorithm_resolved :
    (awaiting.setKey (some 15)).fault = none ∧ (awaiting.setKey (some 15)).run = .awaitingKey 4 ∧
    (awaiting.setKey (some 15)).key = some 15 := by decide

theorem witness_StepAlgorithm_fetch_fault :
    State.ready { boot with pc := 4095 } ∧ 4094 < (State.pc { boot with pc := 4095 }).toNat := by
  refine ⟨⟨?_, ?_⟩, ?_⟩ <;> decide

theorem witness_StepAlgorithm_unknown :
    (lastWord 0xF0 0x00).ready ∧ (lastWord 0xF0 0x00).pc.toNat ≤ 4094 ∧
    ∀ r ∈ opcodeRows, (lastWord 0xF0 0x00).wordAt (lastWord 0xF0 0x00).pc.toNat &&& r.mask ≠ r.pattern := by
  refine ⟨⟨?_, ?_⟩, ?_, ?_⟩ <;> decide

theorem witness_StepAlgorithm_instruction :
    (lastWord 0x00 0xE0).ready ∧ (lastWord 0x00 0xE0).pc.toNat ≤ 4094 ∧
    decodeWord ((lastWord 0x00 0xE0).wordAt (lastWord 0x00 0xE0).pc.toNat) = .ok .cls := by
  refine ⟨⟨?_, ?_⟩, ?_, ?_⟩ <;> decide

theorem witness_FetchIsBigEndian :
    (withBytes 512 [0x60, 0x05] boot).ready ∧ (withBytes 512 [0x60, 0x05] boot).pc.toNat = 512 ∧
    (withBytes 512 [0x60, 0x05] boot).byteAt 512 = 0x60 ∧ (withBytes 512 [0x60, 0x05] boot).byteAt 513 = 0x05 := by
  refine ⟨⟨?_, ?_⟩, ?_, ?_, ?_⟩ <;> decide

theorem witness_FaultsArePrecise_fetch :
    step { boot with pc := 4095 } = .next { boot with pc := 4095, fault := some (.memoryOutOfRange none 4095 4096) } ∧
    boot.fault = none := ⟨rfl, rfl⟩

theorem witness_FaultsArePrecise_execute :
    step (withBytes 512 [0x00, 0xEE] boot) =
      .next { withBytes 512 [0x00, 0xEE] boot with pc := 0x202, fault := some (.stackUnderflow 0x00EE 0x200) } ∧
    (withBytes 512 [0x00, 0xEE] boot).fault = none := ⟨rfl, rfl⟩

theorem witness_FirstFaultStays :
    faulted.fault = some (.unknownInstruction 0 0x200) ∧ 3584 < (List.replicate 3585 (0 : Byte)).length ∧
    Event.setKey (some 3) ≠ .reset ∧ ∀ bs : List Byte, bs.length ≤ 3584 → Event.setKey (some 3) ≠ .load bs :=
  ⟨by decide, by rw [List.length_replicate]; decide, by decide, fun _ _ => by simp⟩

/-- L1: the largest image. -/
theorem witness_LoadPlacesImage :
    (List.replicate 3584 (1 : Byte)).length ≤ 3584 ∧ 3583 < (List.replicate 3584 (1 : Byte)).length := by
  rw [List.length_replicate]; decide

/-- L2: one byte more. -/
theorem witness_LoadTooLargeChangesNothing : 3584 < (List.replicate 3585 (1 : Byte)).length := by
  rw [List.length_replicate]; decide

theorem witness_SetKeyOnlySetsKey : awaiting.fault = none ∧ awaiting.run = .awaitingKey 4 := by decide

/-- A state inside a subroutine, about to return. -/
def inside : State := withBytes 512 [0x00, 0xEE] { boot with sp := 1, stack := [(0, 0x206), (1, 0x300)] }

theorem inside_slot (k : Nat) : inside.slot k = if 0 = k then 0x206 else if 1 = k then 0x300 else 0 := rfl

theorem inside_inv : inside.Inv where
  memCanonical := by decide
  stackCanonical := by decide
  capacityPos := by decide
  spBound := by decide
  pcBound := by decide
  slotBound k := by rw [inside_slot]; split <;> (try split) <;> decide
  liveSlots k h := by
    have : k = 0 := Nat.lt_one_iff.1 h
    subst this; decide
  faultRunning _ := by decide
  faultPc f h := absurd h (by simp [show inside.fault = none from rfl])
  drawFaultPolicy w p r h := absurd h (by simp [show inside.fault = none from rfl])

theorem witness_StepKeepsInvariant :
    inside.Inv ∧ step inside = .next { inside with pc := 0x206, sp := 0 } := ⟨inside_inv, rfl⟩

theorem witness_EventsKeepInvariant : inside.Inv := inside_inv

theorem witness_result_kept_when_not_register_15 : (14 : Nibble) ≠ 15 := by decide

theorem witness_RandomByteMasked : (0x0F : Byte).getLsbD 7 = false := by decide

theorem witness_CallPushesReturnAddress_room : State.sp { boot with sp := 1 } < boot.build.stackCapacity := by decide

theorem witness_CallPushesReturnAddress_full :
    State.sp { boot with sp := 2 } = (State.build { boot with sp := 2 }).stackCapacity := by decide

theorem witness_ReturnPopsAddress_occupied : 0 < inside.sp := by decide

theorem witness_ReturnPopsAddress_empty : boot.sp = 0 := by decide

/-- A call of the last address, where a `RET` stands. -/
def calling : State := withBytes 512 [0x2F, 0xFE] (withBytes 4094 [0x00, 0xEE] { boot with sp := 1 })

theorem witness_CallThenReturnResumes :
    calling.ready ∧ calling.pc.toNat ≤ 4094 ∧ (4094 : Addr12).toNat ≤ 4094 ∧
    calling.wordAt calling.pc.toNat = 0x2#4 ++ (4094 : Addr12) ∧ calling.wordAt (4094 : Addr12).toNat = 0x00EE ∧
    calling.sp < calling.build.stackCapacity ∧ 0 ≠ calling.sp := by
  refine ⟨⟨?_, ?_⟩, ?_, ?_, ?_, ?_, ?_, ?_⟩ <;> decide

theorem witness_SelfJumpIsFixedPoint : (lastWord 0x1F 0xFE).goodEnd := by
  refine ⟨?_, ?_, ?_, ?_⟩ <;> decide

theorem witness_StackPointerMovesByOne :
    step inside = .next { inside with pc := 0x206, sp := 0 } ∧ exec (.jp 0) boot = .next (boot.setPc 0) ∧
    (∀ nnn, Instr.jp 0 ≠ .call nnn) ∧ Instr.jp 0 ≠ .ret := ⟨rfl, rfl, by simp, by simp⟩

theorem witness_StoreDecimalDigits :
    (State.index { boot with index := 4093 }).toNat + 2 ≤ 4095 ∧
    4095 < (State.index { boot with index := 4094 }).toNat + 2 := by decide

/-- A state whose index register is 4080, the last base of a whole block. -/
def atBlock : State := { withRegs [(0, 0xA), (15, 0xB)] with index := 4080 }

theorem witness_StoreRegisterBlock :
    atBlock.index.toNat + (15 : Nibble).toNat ≤ 4095 ∧
    4095 < (State.index { atBlock with index := 4081 }).toNat + (15 : Nibble).toNat := by decide

theorem witness_LoadRegisterBlock :
    atBlock.index.toNat + (15 : Nibble).toNat ≤ 4095 ∧ (15 : Nibble).toNat ≤ (15 : Nibble).toNat ∧
    (14 : Nibble).toNat < (15 : Nibble).toNat ∧
    4095 < (State.index { atBlock with index := 4081 }).toNat + (15 : Nibble).toNat := by decide

theorem witness_BlockStoreThenLoadRestores :
    ∃ t v, exec (.stRegs 15) atBlock = .next t ∧ (t.setReg 0 0).index = atBlock.index ∧
      (∀ a, (t.setReg 0 0).byteAt a = t.byteAt a) ∧ exec (.ldRegs 15) (t.setReg 0 0) = .next v ∧
      atBlock.index.toNat + (15 : Nibble).toNat ≤ 4095 :=
  ⟨_, _, rfl, by decide, fun _ => rfl, rfl, by decide⟩

theorem witness_IndexChangedByThreeOnly :
    exec (.jp 0) boot = .next (boot.setPc 0) ∧ (∀ nnn, Instr.jp 0 ≠ .ldI nnn) ∧ (∀ x, Instr.jp 0 ≠ .addI x) ∧
    ∀ x, Instr.jp 0 ≠ .ldF x := ⟨rfl, by simp, by simp, by simp⟩

/-- P8 of spec 95, before the block store: `V0`, `V1` hold the word 1208, `I` is `PC`. -/
def patching : State := { withRegs [(0, 0x12), (1, 0x08)] with index := 0x208, pc := 0x208 }

theorem witness_FetchSeesBlockStore :
    patching.ready ∧ patching.index.toNat + (1 : Nibble).toNat ≤ 4095 ∧ (∃ t, exec (.stRegs 1) patching = .next t) ∧
    (0 : Nibble).toNat + 1 ≤ (1 : Nibble).toNat ∧ patching.pc.toNat = patching.index.toNat + (0 : Nibble).toNat ∧
    decodeBytes [patching.reg 0, patching.reg (0 + 1)] = .ok (.jp 0x208, []) :=
  ⟨⟨by decide, by decide⟩, by decide, ⟨_, rfl⟩, by decide, by decide, by decide⟩

/-- G9: the first address out of range for three rows. -/
theorem witness_DrawSprite_memory_fault :
    0 < (3 : Nibble).toNat ∧ 4095 < (State.index { boot with index := 0xFFE }).toNat + (3 : Nibble).toNat - 1 := by decide

/-- G10: three rows whose last byte is the last of memory. -/
theorem witness_DrawSprite_last_byte :
    (State.index { boot with index := 0xFFD }).toNat + (3 : Nibble).toNat - 1 = 4095 ∧
    (State.build { boot with index := 0xFFD }).rowPolicy ≠ .fault := by decide

/-- G14: two rows from row 31. -/
theorem witness_DrawSprite_row_fault :
    0 < (2 : Nibble).toNat ∧ (State.index { drawing 0 31 [0x80, 0xFF] with build := ⟨2, .fault⟩ }).toNat + (2 : Nibble).toNat - 1 ≤ 4095 ∧
    (State.build { drawing 0 31 [0x80, 0xFF] with build := ⟨2, .fault⟩ }).rowPolicy = .fault ∧
    31 < ((drawing 0 31 [0x80, 0xFF]).reg 1).toNat + (2 : Nibble).toNat - 1 := by decide

/-- G8: no row at all, wherever `I` and `V1` point. -/
theorem witness_DrawSprite_no_row : (0 : Nibble).toNat = 0 := by decide

/-- G17: the last row of the screen; the sprite names a pixel. -/
theorem witness_DrawSprite_last_row :
    (drawing 0 31 [0x80]).index.toNat + (1 : Nibble).toNat - 1 ≤ 4095 ∧
    ((drawing 0 31 [0x80]).reg 1).toNat + (1 : Nibble).toNat - 1 ≤ 31 ∧
    (drawing 0 31 [0x80]).inSprite 0 31 1 1984 ∧ (drawing 0 31 [0x80]).pixel 1984 = false := by
  refine ⟨by decide, by decide, ⟨0, 0, 31, by decide, by decide, .inl ⟨by decide, by decide⟩, by decide, by decide⟩, by decide⟩

/-- G16: under `wrap`, row 260 is drawn on row 4; the pixel it names is on in this framebuffer. -/
theorem witness_DrawSprite_wraps :
    State.inSprite { drawing 0 250 (List.replicate 11 0x80) with fb := Vector.replicate 32 1 } 0 250 11 256 ∧
    State.pixel { drawing 0 250 (List.replicate 11 0x80) with fb := Vector.replicate 32 1 } 256 = true := by
  refine ⟨⟨10, 0, 4, by decide, by decide, .inr ⟨by decide, by decide, by decide⟩, by decide, by decide⟩, by decide⟩

/-- G13: under `clip`, a row below the screen is not drawn. -/
theorem witness_DrawSprite_clips :
    ¬ State.rowDrawnOn { drawing 0 31 [0x80, 0xFF] with build := ⟨2, .clip⟩ } 31 1 0 := by
  simp [State.rowDrawnOn]

/-- A draw and the same draw again. -/
theorem witness_DrawTwiceRestores :
    ∃ t v, exec (.drw 0 1 1) (drawing 62 31 [0xC3]) = .next t ∧ t.fault = none ∧ exec (.drw 0 1 1) t = .next v ∧
      v.fault = none ∧ t.build = (drawing 62 31 [0xC3]).build ∧ t.reg 0 = (drawing 62 31 [0xC3]).reg 0 ∧
      t.reg 1 = (drawing 62 31 [0xC3]).reg 1 ∧
      ∀ row, row < (1 : Nibble).toNat →
        t.byteAt (t.index.toNat + row) = (drawing 62 31 [0xC3]).byteAt ((drawing 62 31 [0xC3]).index.toNat + row) :=
  ⟨_, _, rfl, by decide, rfl, by decide, by decide, by decide, by decide, by decide⟩

theorem witness_RowPoliciesAgreeOnScreen :
    ((drawing 0 31 [0x80]).reg 1).toNat + (1 : Nibble).toNat ≤ 32 ∧ ∃ t, exec (.drw 0 1 1) (drawing 0 31 [0x80]) = .next t :=
  ⟨by decide, _, rfl⟩

/-- 43 R141 (a): no row, wherever the register points. -/
theorem witness_RowPoliciesAgreeOnScreen_no_row :
    (0 : Nibble).toNat = 0 ∧ ∃ t, exec (.drw 0 1 0) (drawing 0 200 [0x80]) = .next t := ⟨by decide, _, rfl⟩

theorem witness_KeyWaitInstruction : (boot.setKey (some 7)).key = some 7 ∧ boot.key = none := by decide

theorem witness_KeyWaitPersists :
    awaiting.fault = none ∧ awaiting.run = .awaitingKey 4 ∧ awaiting.key = none ∧
    ∀ e ∈ [Event.step, .tick, .clearDirty], e ≠ .reset ∧ (∀ bs : List Byte, e ≠ .load bs) ∧ ∀ k, e ≠ .setKey k :=
  ⟨by decide, by decide, by decide, by simp⟩

theorem witness_InstructionFootprint : exec (.call 0x200) boot = .next (boot.pushPc.setPc 0x200) := rfl

theorem witness_OnlyRandomUsesDraws :
    exec (.addI 0) boot = .next (boot.setIndex 0) ∧ ∀ x nn, Instr.addI 0 ≠ .rnd x nn := ⟨rfl, by simp⟩

end Sys2Proof.Tests
end

/-! SUPPORT. The invariant under every named operation, every instruction, every step and every event (00 R22, R23;
10 R35; 41 R124; 60 R164). -/

namespace Sys2Proof.Machine

variable {s t : State}

/-- Advancing an address does not wrap around below the top of the 16-bit range (00 R21). -/
theorem toNat_add_two {w : Word} (hw : w.toNat ≤ 65533) : (w + 2).toNat = w.toNat + 2 := by
  rw [BitVec.toNat_add, show (2 : Word).toNat = 2 from rfl]
  omega

/-! What the invariant reads. -/

/-- The fields of the state that the invariant speaks of. -/
def State.invFields (s : State) :=
  (s.mem, s.stack, s.sp, s.pc, s.run, s.fault, s.build)

/-- An update of the other fields (registers, `I`, timers, display, keys, draws) keeps the invariant. -/
theorem State.Inv.of_invFields_eq (h : s.Inv) (e : t.invFields = s.invFields) : t.Inv := by
  cases s
  cases t
  simp only [State.invFields, Prod.mk.injEq] at e
  obtain ⟨rfl, rfl, rfl, rfl, rfl, rfl, rfl⟩ := e
  exact { h with }

/-! The operations that write a field the invariant reads. Those that move `PC` or leave `RUN` need an empty latch. -/

theorem State.Inv.setMem {m : List Host.Cell} (h : s.Inv) (hm : Memory.wf m) : State.Inv { s with mem := m } :=
  { h with memCanonical := hm }

theorem State.Inv.storeAtIndex {vs : List Byte} (h : s.Inv) (hv : vs.length = 0 ∨ s.index.toNat + vs.length ≤ 4096) :
    (s.storeAtIndex vs).Inv :=
  h.setMem (Memory.writeBytes_wf vs h.memCanonical hv)

theorem State.Inv.setPc {target : Word} (h : s.Inv) (hf : s.fault = none) (ht : target.toNat ≤ 4350) :
    (s.setPc target).Inv :=
  { h with
    pcBound := ht
    faultPc := by simp [hf] }

theorem State.Inv.setRun {r : RunState} (h : s.Inv) (hf : s.fault = none) : State.Inv { s with run := r } :=
  { h with faultRunning := fun hn => absurd hf hn }

/-- 60 R164: a fault is latched in the run state `Running`, with `PC` where the fault's record says. -/
theorem State.Inv.latchFault {f : Fault} (h : s.Inv) (hr : s.run = .running)
    (hpc : s.pc = if f.word = none then f.pcFetch else f.pcFetch + 2)
    (hd : ∀ w p r, f = .drawOutOfRange w p r → s.build.rowPolicy = .fault) : (s.latchFault f).Inv :=
  { h with
    faultRunning := fun _ => hr
    faultPc := fun _ e => Option.some.inj e ▸ hpc
    drawFaultPolicy := fun w p r e => hd w p r (Option.some.inj e) }

theorem State.Inv.popPc (h : s.Inv) (hf : s.fault = none) : s.popPc.Inv :=
  { h with
    spBound := (Nat.sub_le _ _).trans h.spBound
    pcBound := (h.slotBound (s.sp - 1)).trans (by decide)
    liveSlots := fun k hk => h.liveSlots k (Nat.lt_of_lt_of_le hk (Nat.sub_le _ _))
    faultPc := by simp [hf] }

/-- The pushed `PC` becomes a live slot, so it has to be a return address: from 2 to 4096 (41 R124). -/
theorem State.Inv.pushPc (h : s.Inv) (hsp : s.sp < s.build.stackCapacity) (hlo : 2 ≤ s.pc.toNat)
    (hhi : s.pc.toNat ≤ 4096) : s.pushPc.Inv :=
  { h with
    stackCanonical := Stack.write_wf s.pc h.stackCanonical hsp
    spBound := hsp
    slotBound := fun k => by
      rw [State.slot_pushPc]
      split
      · exact hhi
      · exact h.slotBound k
    liveSlots := fun k hk => by
      have hk' : k < s.sp + 1 := hk
      rw [State.slot_pushPc]
      split
      · exact hlo
      · exact h.liveSlots k (by omega) }

theorem State.Inv.resolveKeyWait {r : Nibble} (h : s.Inv) (hf : s.fault = none) : (s.resolveKeyWait r).Inv := by
  unfold State.resolveKeyWait
  split
  · exact State.Inv.setRun (h.of_invFields_eq rfl) hf
  · exact h

/-! The execute part of a step. -/

/-- A state with the invariant from which the execute part of a step starts: the fetch has advanced `PC` from an
address of at most 4094, no fault is latched and no key is awaited (41 R111). -/
structure State.Fetched (s : State) : Prop where
  inv : s.Inv
  ready : s.ready
  pcLow : 2 ≤ s.pc.toNat
  pcHigh : s.pc.toNat ≤ 4096

theorem State.Inv.fetched_skip (h : s.Inv) (hr : s.ready) (hp : s.pc.toNat ≤ 4094) : s.skip.Fetched := by
  have hpc : (s.pc + 2).toNat = s.pc.toNat + 2 := toNat_add_two (by omega)
  refine ⟨h.setPc hr.1 ?_, hr, ?_, ?_⟩
  all_goals simp only [State.skip_pc, hpc]; omega

/-- A taken skip goes at most to 4098 (41 R122). -/
theorem State.Fetched.skipIf (h : s.Fetched) (c : Bool) : (s.skipIf c).Inv := by
  cases c
  · exact h.inv
  · have hhi := h.pcHigh
    exact h.inv.setPc h.ready.1 (by rw [toNat_add_two] <;> omega)

/-- A fault of the execute part records its word and the address it was fetched from (60 R163, R164). -/
theorem State.Fetched.latchFault {f : Fault} {w : Word} (h : s.Fetched) (hw : f.word = some w)
    (hp : f.pcFetch = s.pcFetch) (hd : ∀ w p r, f = .drawOutOfRange w p r → s.build.rowPolicy = .fault) :
    (s.latchFault f).Inv :=
  h.inv.latchFault h.ready.2 (by simp [hw, hp, State.pcFetch]) hd

/-- A range check keeps the invariant when the access it guards does (20 R59). -/
theorem State.Fetched.guardRange {i : Instr} {len : Nat} (h : s.Fetched)
    (ht : len = 0 ∨ s.index.toNat + len - 1 ≤ 4095 → t.Inv) : (s.guardRange i len t).Inv := by
  rcases s.guardRange_cases i len t with ⟨e, hin⟩ | ⟨e, -⟩
  · rw [e]
    exact ht hin
  · rw [e]
    exact h.latchFault rfl rfl (by simp)

/-- A range-checked store of `vs` at `I`: in range, every byte of it goes below 4096. -/
theorem State.Fetched.guardedStore {i : Instr} {len : Nat} {vs : List Byte} (h : s.Fetched) (hv : vs.length = len) :
    (s.guardRange i len (s.storeAtIndex vs)).Inv :=
  h.guardRange fun hin => h.inv.storeAtIndex (by omega)

theorem State.Fetched.exec_call_inv (h : s.Fetched) (nnn : Addr12) : ∃ t, exec (.call nnn) s = .next t ∧ t.Inv := by
  by_cases hsp : s.sp < s.build.stackCapacity
  · have hpush : s.pushPc.Inv := h.inv.pushPc hsp h.pcLow h.pcHigh
    have := nnn.isLt
    exact ⟨_, if_pos hsp, hpush.setPc h.ready.1 (by rw [addressWord_toNat]; omega)⟩
  · exact ⟨_, if_neg hsp, h.latchFault rfl rfl (by simp)⟩

theorem State.Fetched.exec_ret_inv (h : s.Fetched) : ∃ t, exec .ret s = .next t ∧ t.Inv := by
  by_cases hsp : s.sp = 0
  · exact ⟨_, if_pos hsp, h.latchFault rfl rfl (by simp)⟩
  · exact ⟨_, if_neg hsp, h.inv.popPc h.ready.1⟩

/-- A `DrawOutOfRange` is raised only where the row check says so, which is under the policy `fault` (60 R160). -/
theorem State.Fetched.exec_drw_inv (h : s.Fetched) (x y n : Nibble) : ∃ t, exec (.drw x y n) s = .next t ∧ t.Inv := by
  refine ⟨_, rfl, h.guardRange fun _ => ?_⟩
  by_cases hrow : s.rowFault (s.reg y).toNat n.toNat = true
  · rw [if_pos hrow]
    obtain ⟨-, -, hpolicy⟩ := (s.rowFault_iff _ _).1 hrow
    exact h.latchFault rfl rfl fun _ _ _ _ => hpolicy
  · rw [if_neg hrow]
    exact h.inv.of_invFields_eq rfl

theorem State.Fetched.exec_ldVxK_inv (h : s.Fetched) (x : Nibble) : ∃ t, exec (.ldVxK x) s = .next t ∧ t.Inv := by
  simp only [exec, execLdVxK]
  split
  · exact ⟨_, rfl, h.inv.of_invFields_eq rfl⟩
  · exact ⟨_, rfl, h.inv.setRun h.ready.1⟩

/-- Every instruction answers a next state with the invariant, from every state a fetch leaves. -/
theorem State.Fetched.exec_inv (h : s.Fetched) (i : Instr) : ∃ t, exec i s = .next t ∧ t.Inv := by
  cases i with
  | cls | ldImm | addImm | ldReg | orReg | andReg | xorReg | addReg | subReg | shr | subnReg | shl | rnd
  | ldI | addI | ldF | ldVxDt | ldDtVx | ldStVx => exact ⟨_, rfl, h.inv.of_invFields_eq rfl⟩
  | seImm | sneImm | seReg | sneReg | skp | sknp => exact ⟨_, rfl, h.skipIf _⟩
  | jp nnn =>
    have := nnn.isLt
    exact ⟨_, rfl, h.inv.setPc h.ready.1 (by rw [addressWord_toNat]; omega)⟩
  | jpV0 nnn =>
    have := nnn.isLt
    have := (s.reg 0).isLt
    exact ⟨_, rfl, h.inv.setPc h.ready.1 (by rw [State.offsetTarget_toNat]; omega)⟩
  | call nnn => exact h.exec_call_inv nnn
  | ret => exact h.exec_ret_inv
  | drw x y n => exact h.exec_drw_inv x y n
  | ldB x => exact ⟨_, rfl, h.guardedStore rfl⟩
  | stRegs x => exact ⟨_, rfl, h.guardedStore (s.length_regsUpTo x)⟩
  | ldRegs x => exact ⟨_, rfl, h.guardRange fun _ => h.inv.of_invFields_eq rfl⟩
  | ldVxK x => exact h.exec_ldVxK_inv x

/-! Steps, events and sequences of events. -/

theorem step_keeps_inv (h : s.Inv) (hs : step s = .next t) : t.Inv := by
  rcases step_cases hs with ⟨-, rfl⟩ | ⟨hf, r, -, rfl⟩ | ⟨hr, -, rfl⟩ | ⟨hr, hp, -, rfl⟩ | ⟨hr, hp, i, -, he⟩
  · exact h
  · exact h.resolveKeyWait hf
  · exact h.latchFault hr.2 rfl (by simp)
  · exact (h.fetched_skip hr hp).inv.latchFault hr.2 rfl (by simp)
  · obtain ⟨u, hu, hinv⟩ := (h.fetched_skip hr hp).exec_inv i
    obtain rfl : u = t := by simpa [he] using hu.symm
    exact hinv

/-- Reset establishes the invariant; of the state before it only the build's capacity matters. -/
theorem State.resetEvent_inv (hc : 1 ≤ s.build.stackCapacity) : s.resetEvent.Inv where
  memCanonical := ⟨.nil, by simp [State.resetEvent, State.reset]⟩
  stackCanonical := ⟨.nil, by simp [State.resetEvent, State.reset]⟩
  capacityPos := hc
  spBound := Nat.zero_le _
  pcBound := show (512 : Word).toNat ≤ 4350 by decide
  slotBound _ := Nat.zero_le _
  liveSlots _ hk := absurd hk (Nat.not_lt_zero _)
  faultRunning _ := rfl
  faultPc _ e := nomatch e
  drawFaultPolicy _ _ _ e := nomatch e

/-- An image that fits ends at 4095 or below (70 R180). -/
theorem load_keeps_inv {bytes : List Byte} (h : s.Inv) (hl : load bytes s = .next t) : t.Inv := by
  unfold load at hl
  split at hl
  case isTrue hfit =>
    have hreset : s.resetEvent.Inv := s.resetEvent_inv h.capacityPos
    cases hl
    refine hreset.setMem (Memory.writeBytes_wf _ hreset.memCanonical (.inr ?_))
    simp only [Config.programCapacity] at hfit
    simp only [Config.loadOffset]
    omega
  case isFalse => cases hl

theorem handle_keeps_inv {e : Event} (h : s.Inv) (he : handle e s = .next t) : t.Inv := by
  cases e with
  | reset => cases he; exact s.resetEvent_inv h.capacityPos
  | load bytes => exact load_keeps_inv h he
  | step => exact step_keeps_inv h he
  | tick | setKey | clearDirty => cases he; exact h.of_invFields_eq rfl
  | isDirty | readFb => cases he; exact h

/-- After an event the machine is in the state that the event answers, or, if it answers none, where it was. -/
theorem State.after_cases (s : State) (e : Event) : handle e s = .next (s.after e) ∨ s.after e = s := by
  unfold State.after
  cases handle e s with
  | next t => exact .inl rfl
  | fault r => exact .inr rfl
  | refused r => exact .inr rfl

theorem State.Inv.after (h : s.Inv) (e : Event) : (s.after e).Inv := by
  rcases s.after_cases e with he | he
  · exact handle_keeps_inv h he
  · exact he.symm ▸ h

theorem State.Inv.runEvents (h : s.Inv) (es : List Event) : (runEvents s es).Inv := by
  induction es generalizing s with
  | nil => exact h
  | cons e es ih => exact ih (h.after e)

end Sys2Proof.Machine

namespace Sys2Proof

open Sys2Proof.Machine

/-- Settles O20: every event keeps the invariant, and a sequence of events does by induction on its length. -/
theorem eventsKeepInvariant : Obligations.EventsKeepInvariant :=
  ⟨fun _ e h => h.after e, fun _ es h => h.runEvents es⟩

end Sys2Proof

/-! SUPPORT. The executing case of a step, forwards: from a state whose word at `PC` decodes (41 R111). -/

namespace Sys2Proof.Machine

variable {s : State} {i : Instr}

/-- With nothing to keep the step from fetching, what comes before the execute part is the fetch of `i`. -/
theorem State.beforeExecute_of_decodeWord (hr : s.ready) (hp : s.pc.toNat ≤ 4094)
    (hd : decodeWord (s.wordAt s.pc.toNat) = .ok i) : s.beforeExecute = (s.skip, some i) := by
  obtain ⟨hfault, hrun⟩ := hr
  have hfetch : s.canFetch = true := s.canFetch_iff.2 hp
  have hdecode : s.fetchDecode = (s.skip, some i) := by rw [State.fetchDecode, hd]
  simp [State.beforeExecute, hfault, hrun, hfetch, hdecode]

theorem step_of_decodeWord (hr : s.ready) (hp : s.pc.toNat ≤ 4094)
    (hd : decodeWord (s.wordAt s.pc.toNat) = .ok i) : step s = exec i s.skip := by
  rw [step, State.beforeExecute_of_decodeWord hr hp hd]

/-- The reset state is what `reset()` makes of itself, and its build has at least one stack slot (00 R12). -/
theorem State.reset_inv : State.reset.Inv :=
  State.resetEvent_inv (s := State.reset) (Nat.succ_le_succ (Nat.zero_le Config.stackExtra))

end Sys2Proof.Machine

namespace Sys2Proof

open Sys2Proof.Machine

/-- Settles O6: the two bytes at `PC` decode as the word they make, and the step executes that word. -/
theorem stepRunsDecodedInstruction : Obligations.StepRunsDecodedInstruction := by
  intro s i hready hpc hbytes
  have hword : decodeWord (s.wordAt s.pc.toNat) = .ok i := (decodeBytes_two _ _ i).1 hbytes
  exact step_of_decodeWord hready hpc hword

/-- Settles O18: reset establishes the invariant. -/
theorem invariantAtReset : Obligations.InvariantAtReset :=
  State.reset_inv

end Sys2Proof

/-! SUPPORT. The word of a fetch as a number (20 R56). -/

namespace Sys2Proof.Machine

/-- 20 R56: the byte at the lower address is the high byte. -/
theorem State.wordAt_toNat (s : State) (a : Nat) :
    (s.wordAt a).toNat = (s.byteAt a).toNat * 256 + (s.byteAt (a + 1)).toNat :=
  Laws.wordOfBytes_toNat _ _

end Sys2Proof.Machine

namespace Sys2Proof

open Sys2Proof.Machine

/-- Settles O8: a fetched word is the number its two bytes make, and the bytes 60 05 make the word of `LD V0, 5`. -/
theorem fetchIsBigEndian : Obligations.FetchIsBigEndian := by
  refine ⟨State.wordAt_toNat, fun s hready hpc hhigh hlow => ?_⟩
  have hword : s.wordAt 512 = 0x6005 :=
    BitVec.eq_of_toNat_eq (by rw [State.wordAt_toNat, hhigh, hlow]; rfl)
  have hdecode : decodeWord (s.wordAt s.pc.toNat) = .ok (.ldImm 0 5) := by
    rw [hpc, hword]; decide
  exact ⟨hword, step_of_decodeWord hready (by omega) hdecode⟩

end Sys2Proof

/-! SUPPORT. The decoder against the encoder and against the rows of the opcode map (30 R74 to R87). -/

namespace Sys2Proof.Laws

variable {w : Word} {i : Instr}

/-! A word of known family, as a number and as the format of its other fields. -/

theorem div_of_opField {op : Nibble} (hop : opField w = op) : w.toNat / 4096 = op.toNat := by
  rw [← opField_toNat, hop]

theorem formatA_of_opField {op : Nibble} {nnn : Addr12} (hop : opField w = op) (hnnn : nnnField w = nnn) :
    formatA op nnn = w := by
  rw [← hop, ← hnnn, formatA_fields]

theorem formatXI_of_opField {op : Nibble} {nn : Byte} (hop : opField w = op) (hnn : nnField w = nn) :
    formatXI op (xField w) nn = w := by
  rw [← hop, ← hnn, formatXI_fields]

theorem formatXYN_of_opField {op n : Nibble} (hop : opField w = op) (hn : nField w = n) :
    formatXYN op (xField w) (yField w) n = w := by
  rw [← hop, ← hn, formatXYN_fields]

/-! Decoding a word that was encoded. -/

/-- 30 R74, R85: the decoder inverts the encoder, format by format and, where a family has a sub-opcode, family by
family. -/
@[simp] theorem decodeWord_encode (i : Instr) : decodeWord (encode i) = .ok i := by
  cases i with
  | cls | ret => simp [encode, decodeWord, decodeFamily0]
  | jp | call | ldI | jpV0 => simp [encode, decodeWord]
  | seImm | sneImm | ldImm | addImm | rnd => simp [encode, decodeWord]
  | seReg | sneReg | drw => simp [encode, decodeWord]
  | ldReg | orReg | andReg | xorReg | addReg | subReg | shr | subnReg | shl =>
    simp [encode, decodeWord, decodeFamily8]
  | skp | sknp => simp [encode, decodeWord, decodeFamilyE]
  | ldVxDt | ldVxK | ldDtVx | ldStVx | addI | ldF | ldB | stRegs | ldRegs =>
    simp [encode, decodeWord, decodeFamilyF]

/-! Encoding what was decoded: in the four families with a sub-opcode, the sub-opcode is the field that was tested. -/

theorem encode_of_decodeFamily0 (hop : opField w = 0x0) (h : decodeFamily0 w = .ok i) : encode i = w := by
  unfold decodeFamily0 at h
  split_ifs at h <;> cases h <;> exact formatA_of_opField hop ‹_›

theorem encode_of_decodeFamily8 (hop : opField w = 0x8) (h : decodeFamily8 w = .ok i) : encode i = w := by
  unfold decodeFamily8 at h
  split_ifs at h <;> cases h <;> exact formatXYN_of_opField hop ‹_›

theorem encode_of_decodeFamilyE (hop : opField w = 0xE) (h : decodeFamilyE w = .ok i) : encode i = w := by
  unfold decodeFamilyE at h
  split_ifs at h <;> cases h <;> exact formatXI_of_opField hop ‹_›

theorem encode_of_decodeFamilyF (hop : opField w = 0xF) (h : decodeFamilyF w = .ok i) : encode i = w := by
  unfold decodeFamilyF at h
  split_ifs at h <;> cases h <;> exact formatXI_of_opField hop ‹_›

/-- The dispatch on the family, said once (30 R78, R84): four families look at a sub-opcode, and in each of the other
twelve every word is an instruction. -/
theorem decodeWord_cases (w : Word) :
    (opField w = 0x0 ∧ decodeWord w = decodeFamily0 w) ∨
    (opField w = 0x8 ∧ decodeWord w = decodeFamily8 w) ∨
    (opField w = 0xE ∧ decodeWord w = decodeFamilyE w) ∨
    (opField w = 0xF ∧ decodeWord w = decodeFamilyF w) ∨
    ((opField w).toNat ∉ [0x0, 0x8, 0xE, 0xF] ∧ ∃ i, decodeWord w = .ok i ∧ encode i = w) := by
  have hfamily {op : Nibble} (h : (opField w).toNat = op.toNat) : opField w = op := BitVec.eq_of_toNat_eq h
  unfold decodeWord
  split
  case h_1 h => exact .inl ⟨hfamily h, rfl⟩
  case h_9 h => exact .inr (.inl ⟨hfamily h, rfl⟩)
  case h_15 h => exact .inr (.inr (.inl ⟨hfamily h, rfl⟩))
  case h_16 =>
    have hlt := (opField w).isLt
    have hF : (opField w).toNat = 0xF := by simp only [imp_false] at *; omega
    exact .inr (.inr (.inr (.inl ⟨hfamily hF, rfl⟩)))
  all_goals refine .inr (.inr (.inr (.inr ⟨by simp [*], _, rfl, ?_⟩)))
  case h_2 h | h_3 h | h_11 h | h_12 h => exact formatA_of_opField (hfamily h) rfl
  case h_4 h | h_5 h | h_7 h | h_8 h | h_13 h => exact formatXI_of_opField (hfamily h) rfl
  case h_6 h | h_10 h | h_14 h => exact formatXYN_of_opField (hfamily h) rfl

/-- 30 R74, R85: no bit of a decoded word is dropped. -/
theorem encode_of_decodeWord (h : decodeWord w = .ok i) : encode i = w := by
  obtain ⟨hop, hd⟩ | ⟨hop, hd⟩ | ⟨hop, hd⟩ | ⟨hop, hd⟩ | ⟨-, j, hd, hj⟩ := decodeWord_cases w
  · exact encode_of_decodeFamily0 hop (hd ▸ h)
  · exact encode_of_decodeFamily8 hop (hd ▸ h)
  · exact encode_of_decodeFamilyE hop (hd ▸ h)
  · exact encode_of_decodeFamilyF hop (hd ▸ h)
  · cases hd.symm.trans h
    exact hj

/-! The words that are no instruction (30 R79 to R84). -/

theorem decodeFamily0_error_iff :
    (∃ e, decodeFamily0 w = .error e) ↔ w.toNat % 4096 ≠ 0x0E0 ∧ w.toNat % 4096 ≠ 0x0EE := by
  rw [← nnnField_toNat]
  unfold decodeFamily0
  split_ifs <;> simp_all [← BitVec.toNat_inj]

theorem decodeFamily8_error_iff :
    (∃ e, decodeFamily8 w = .error e) ↔ w.toNat % 16 ∈ [8, 9, 0xA, 0xB, 0xC, 0xD, 0xF] := by
  rw [← nField_toNat]
  have hlt := (nField w).isLt
  unfold decodeFamily8
  split_ifs <;> simp_all [← BitVec.toNat_inj]
  omega

theorem decodeFamilyE_error_iff : (∃ e, decodeFamilyE w = .error e) ↔ w.toNat % 256 ∉ [0x9E, 0xA1] := by
  rw [← nnField_toNat]
  unfold decodeFamilyE
  split_ifs <;> simp_all [← BitVec.toNat_inj]

theorem decodeFamilyF_error_iff :
    (∃ e, decodeFamilyF w = .error e) ↔
      w.toNat % 256 ∉ [0x07, 0x0A, 0x15, 0x18, 0x1E, 0x29, 0x33, 0x55, 0x65] := by
  rw [← nnField_toNat]
  unfold decodeFamilyF
  split_ifs <;> simp_all [← BitVec.toNat_inj]

end Sys2Proof.Laws

namespace Sys2Proof

open Laws

/-- Settles O1: each format is read back field by field, and the family or sub-opcode it carries is the one tested. -/
theorem decodeOfEncode : Obligations.DecodeOfEncode :=
  decodeWord_encode

/-- Settles O2: the fields and the sub-opcode that decoding tested are all the bits of the word. -/
theorem encodeOfDecode : Obligations.EncodeOfDecode :=
  fun _ _ => encode_of_decodeWord

/-- Settles O4: only the families 0, 8, E and F refuse words, each by the sub-opcode it looks at. -/
theorem illegalWordsByFamily : Obligations.IllegalWordsByFamily := by
  intro w
  obtain ⟨hop, hd⟩ | ⟨hop, hd⟩ | ⟨hop, hd⟩ | ⟨hop, hd⟩ | ⟨hop, i, hd, -⟩ := decodeWord_cases w
  · have hw : w.toNat / 4096 = 0 := div_of_opField hop
    rw [hd, decodeFamily0_error_iff]
    simp [hw]
    omega
  · rw [hd, decodeFamily8_error_iff]
    simp [div_of_opField hop]
  · rw [hd, decodeFamilyE_error_iff]
    simp [div_of_opField hop]
  · rw [hd, decodeFamilyF_error_iff]
    simp [div_of_opField hop]
  · rw [opField_toNat] at hop
    simp at hop
    simp [hd, hop]

/-- Settles O5: twelve of the words are encodings, written as numbers; the thirteenth is in family 0 and no row's. -/
theorem specWordsDecode : Obligations.SpecWordsDecode :=
  ⟨decodeWord_encode (.ldImm 0 0x05), decodeWord_encode (.ldImm 1 0x03), decodeWord_encode (.addReg 0 1),
   decodeWord_encode (.call 0x200), decodeWord_encode (.drw 5 0xA 3), decodeWord_encode (.seReg 0xA 0xB 7),
   decodeWord_encode (.sneReg 0xA 0xB 1), decodeWord_encode .cls, decodeWord_encode .ret,
   decodeWord_encode (.ldRegs 2), decodeWord_encode (.skp 1), decodeWord_encode (.ldVxK 4), rfl⟩

end Sys2Proof

/-! SUPPORT. The rows of the opcode map (30 R85): every instruction is in one of them, no word is in two, and a word in
one is an instruction. -/

namespace Sys2Proof.Laws

variable {w : Word} {i : Instr}

/-- Every instruction's word is a word of its row: the family `OpcodeMap`, put together. -/
theorem OpcodeMap.all : ∀ i : Instr, Statement i
  | .cls => cls
  | .ret => ret
  | .jp nnn => jp nnn
  | .call nnn => call nnn
  | .seImm x nn => seImm x nn
  | .sneImm x nn => sneImm x nn
  | .seReg x y z => seReg x y z
  | .ldImm x nn => ldImm x nn
  | .addImm x nn => addImm x nn
  | .ldReg x y => ldReg x y
  | .orReg x y => orReg x y
  | .andReg x y => andReg x y
  | .xorReg x y => xorReg x y
  | .addReg x y => addReg x y
  | .subReg x y => subReg x y
  | .shr x y => shr x y
  | .subnReg x y => subnReg x y
  | .shl x y => shl x y
  | .sneReg x y z => sneReg x y z
  | .ldI nnn => ldI nnn
  | .jpV0 nnn => jpV0 nnn
  | .rnd x nn => rnd x nn
  | .drw x y n => drw x y n
  | .skp x => skp x
  | .sknp x => sknp x
  | .ldVxDt x => ldVxDt x
  | .ldVxK x => ldVxK x
  | .ldDtVx x => ldDtVx x
  | .ldStVx x => ldStVx x
  | .addI x => addI x
  | .ldF x => ldF x
  | .ldB x => ldB x
  | .stRegs x => stRegs x
  | .ldRegs x => ldRegs x

theorem encode_and_mask (i : Instr) : encode i &&& i.row.mask = i.row.pattern :=
  beq_iff_eq.1 (OpcodeMap.all i)

theorem decodeWord_and_mask (h : decodeWord w = .ok i) : w &&& i.row.mask = i.row.pattern :=
  encode_of_decodeWord h ▸ encode_and_mask i

theorem row_mem_opcodeRows (i : Instr) : i.row ∈ opcodeRows := by
  cases i <;> simp [Instr.row, opcodeRows, Instr.samples]

theorem opcodeRows_nodup : opcodeRows.Nodup := by decide

/-- Two rows differ in a bit that both masks cover. -/
theorem opcodeRows_eq_of_agree :
    ∀ p ∈ opcodeRows, ∀ q ∈ opcodeRows, p.pattern &&& q.mask = q.pattern &&& p.mask → p = q := by
  decide

theorem opcodeRow_unique {p q : OpcodeRow} (hp : p ∈ opcodeRows) (hq : q ∈ opcodeRows)
    (hwp : w &&& p.mask = p.pattern) (hwq : w &&& q.mask = q.pattern) : p = q :=
  opcodeRows_eq_of_agree p hp q hq (by
    rw [← hwp, ← hwq, BitVec.and_assoc, BitVec.and_assoc, BitVec.and_comm p.mask])

theorem opcodeRows_pairwise_disjoint :
    opcodeRows.Pairwise fun p q => ∀ w : Word, ¬ (w &&& p.mask = p.pattern ∧ w &&& q.mask = q.pattern) :=
  opcodeRows_nodup.pairwise_of_forall_ne fun _ hp _ hq hne _ hw => hne (opcodeRow_unique hp hq hw.1 hw.2)

/-- 30 R85, R87: a word of a row is an instruction, for it is none of the words that are refused. -/
theorem exists_decodeWord_of_matchesWord (h : i.row.matchesWord w = true) : ∃ j, decodeWord w = .ok j := by
  cases hd : decodeWord w with
  | ok j => exact ⟨j, rfl⟩
  | error e =>
    exfalso
    have hillegal := (illegalWordsByFamily w).1 ⟨e, hd⟩
    cases i with
    | cls | ret =>
      have hw := (matchesWord_FFFF _ _).1 h
      simp at hw hillegal
      omega
    | jp | call | seImm | sneImm | seReg | ldImm | addImm | sneReg | ldI | jpV0 | rnd | drw =>
      have hw := (matchesWord_F000 _ _).1 h
      simp at hw hillegal
      omega
    | ldReg | orReg | andReg | xorReg | addReg | subReg | shr | subnReg | shl =>
      have hw := (matchesWord_F00F _ _).1 h
      simp at hw hillegal
      omega
    | skp | sknp | ldVxDt | ldVxK | ldDtVx | ldStVx | addI | ldF | ldB | stRegs | ldRegs =>
      have hw := (matchesWord_F0FF _ _).1 h
      simp at hw hillegal
      omega

end Sys2Proof.Laws

namespace Sys2Proof

open Laws

/-- Settles O3: a word of a row decodes, and what it decodes to is of that row because no other row has the word. -/
theorem decodeFollowsOpcodeMap : Obligations.DecodeFollowsOpcodeMap := by
  refine ⟨fun r hr w => ⟨fun hw => ?_, ?_⟩, opcodeRows_pairwise_disjoint⟩
  · obtain ⟨i, -, rfl⟩ := List.mem_map.1 hr
    obtain ⟨j, hj⟩ := exists_decodeWord_of_matchesWord (beq_iff_eq.2 hw)
    exact ⟨j, hj, opcodeRow_unique (row_mem_opcodeRows j) hr (decodeWord_and_mask hj) hw⟩
  · rintro ⟨i, hd, rfl⟩
    exact decodeWord_and_mask hd

end Sys2Proof

/-! SUPPORT. What an ALU instruction leaves behind (40 R94 to R110): the written register, the flag as a number, the
frame; and the words of the ALU instructions as the concatenations of their fields. -/

namespace Sys2Proof.Laws

/-- 30 R85: a word that is the encoding of an instruction, however it is written, decodes to it. -/
theorem decodeWord_of_eq_encode {w : Word} {i : Instr} (h : w = encode i) : decodeWord w = .ok i :=
  h ▸ decodeWord_encode i

end Sys2Proof.Laws

namespace Sys2Proof.Machine

/-! A write to a register, without and with the flag, and a draw. -/

theorem State.reg_setReg_self (s : State) (r : Nibble) (v : Byte) : (s.setReg r v).reg r = v := by
  rw [State.reg_setReg, if_pos rfl]

/-- 10 R29, 40 R108: the result is written last, so it is what its register holds, register 15 too. -/
theorem State.reg_setFlagThenReg_self (s : State) (b : Bool) (r : Nibble) (v : Byte) :
    (s.setFlagThenReg b r v).reg r = v := by
  rw [State.reg_setFlagThenReg, if_pos rfl]

theorem State.flag_setFlagThenReg_toNat (s : State) (b : Bool) {r : Nibble} (v : Byte) (hr : r ≠ 15) :
    ((s.setFlagThenReg b r v).reg 15).toNat = b.toNat := by
  rw [State.reg_setFlagThenReg, if_neg hr.symm, if_pos rfl]
  cases b <;> rfl

theorem State.setReg_frame (s : State) (r : Nibble) (v : Byte) : State.frame [] [r] s (s.setReg r v) := by
  refine ⟨fun q hq => ?_, fun p _ => ?_⟩
  · rw [State.reg_setReg, if_neg (List.ne_of_not_mem_cons hq)]
  · cases p <;> simp [Part.same]

theorem State.setFlagThenReg_frame (s : State) (b : Bool) (r : Nibble) (v : Byte) :
    State.frame [] [r, 15] s (s.setFlagThenReg b r v) :=
  have hflag : State.frame [] [15] s (s.setFlag b) := s.setReg_frame 15 _
  have hresult : State.frame [] [r] (s.setFlag b) (s.setFlagThenReg b r v) := (s.setFlag b).setReg_frame r v
  State.frame_mono (State.frame_trans hflag hresult) (by simp) (by simp)

theorem State.countDraw_frame (s : State) : State.frame [.draws] [] s s.countDraw := by
  refine ⟨fun q _ => rfl, fun p hp => ?_⟩
  cases p <;> simp [Part.same] at hp ⊢

/-! The flags as the numbers written to `VF` (40 R110). -/

theorem carryFlag_toNat (a b : Byte) : (carryFlag a b).toNat = if 255 < a.toNat + b.toNat then 1 else 0 := by
  rw [carryFlag, Bool.toNat, Bool.cond_decide]

theorem greaterFlag_toNat (a b : Byte) : (greaterFlag a b).toNat = if b.toNat < a.toNat then 1 else 0 := by
  rw [greaterFlag, Bool.toNat, Bool.cond_decide]

theorem lowBitFlag_toNat (a : Byte) : (lowBitFlag a).toNat = a.toNat % 2 := by
  rw [lowBitFlag_eq, Bool.toNat, Bool.cond_decide]
  split <;> omega

theorem highBitFlag_toNat (a : Byte) : (highBitFlag a).toNat = a.toNat / 128 := by
  rw [highBitFlag_eq, Bool.toNat, Bool.cond_decide]
  have hlt := a.isLt
  split <;> omega

/-- What `SUB` and `SUBN` write, for any two operands (40 R101, R103): the comparison first, the narrowed difference
last. -/
theorem State.setFlagThenReg_difference (s : State) (r : Nibble) (a b : Byte) :
    let t := s.setFlagThenReg (greaterFlag a b) r (differenceByte a b)
    ((t.reg r).toNat : Int) = (a.toNat - b.toNat : Int) % 256 ∧
      (r ≠ 15 → (t.reg 15).toNat = if b.toNat < a.toNat then 1 else 0) ∧ State.frame [] [r, 15] s t := by
  refine ⟨?difference, fun hr => ?greater, s.setFlagThenReg_frame _ r _⟩
  case difference => rw [State.reg_setFlagThenReg_self, differenceByte_toNat]
  case greater => rw [s.flag_setFlagThenReg_toNat _ _ hr, greaterFlag_toNat]

end Sys2Proof.Machine

namespace Sys2Proof

open Laws Machine

/-- Settles O21: the immediate is what the one written register holds. -/
theorem loadImmediate : Obligations.LoadImmediate := fun x nn s =>
  ⟨decodeWord_of_eq_encode (concat_XI 0x6 x nn), _, rfl, s.reg_setReg_self x nn, s.setReg_frame x nn⟩

/-- Settles O22: the narrowed sum goes to one register, so `VF` changes only as the destination. -/
theorem addImmediate : Obligations.AddImmediate := by
  intro x nn s
  refine ⟨decodeWord_of_eq_encode (concat_XI 0x7 x nn), _, rfl, ?_, s.setReg_frame x _⟩
  rw [State.reg_setReg_self, sumByte_toNat]

/-- Settles O23: the one written register holds the value that the source held before. -/
theorem copyRegister : Obligations.CopyRegister := fun x y s =>
  ⟨decodeWord_of_eq_encode (concat_XYN 0x8 x y 0x0), _, rfl, s.reg_setReg_self x _, s.setReg_frame x _⟩

/-- Settles O24: the one written register holds the word-wide operation, which each bit computes by itself. -/
theorem logicRegisters : Obligations.LogicRegisters := by
  intro x y s
  refine ⟨?or, ?and, ?xor⟩
  case or =>
    refine ⟨decodeWord_of_eq_encode (concat_XYN 0x8 x y 0x1), _, rfl, s.setReg_frame x _, fun b _ => ?_⟩
    rw [State.reg_setReg_self, BitVec.getLsbD_or]
  case and =>
    refine ⟨decodeWord_of_eq_encode (concat_XYN 0x8 x y 0x2), _, rfl, s.setReg_frame x _, fun b _ => ?_⟩
    rw [State.reg_setReg_self, BitVec.getLsbD_and]
  case xor =>
    refine ⟨decodeWord_of_eq_encode (concat_XYN 0x8 x y 0x3), _, rfl, s.setReg_frame x _, fun b _ => ?_⟩
    rw [State.reg_setReg_self, BitVec.getLsbD_xor]

/-- Settles O25: the carry is written first, so the narrowed sum remains in register X and the carry in `VF` unless
X is 15. -/
theorem addRegisters : Obligations.AddRegisters := by
  intro x y s
  refine ⟨decodeWord_of_eq_encode (concat_XYN 0x8 x y 0x4), _, rfl, ?sum, fun hx => ?carry,
    s.setFlagThenReg_frame _ x _⟩
  case sum => rw [State.reg_setFlagThenReg_self, sumByte_toNat]
  case carry => rw [s.flag_setFlagThenReg_toNat _ _ hx, carryFlag_toNat]

/-- Settles O26: both instructions subtract two old operands in the same way, in opposite order. -/
theorem subtractRegisters : Obligations.SubtractRegisters := fun x y s =>
  ⟨⟨decodeWord_of_eq_encode (concat_XYN 0x8 x y 0x5), _, rfl, s.setFlagThenReg_difference x (s.reg x) (s.reg y)⟩,
    decodeWord_of_eq_encode (concat_XYN 0x8 x y 0x7), _, rfl, s.setFlagThenReg_difference x (s.reg y) (s.reg x)⟩

/-- Settles O27: the bit shifted out is written first, and the shifted value of register X, whatever Y is, last. -/
theorem shiftRegister : Obligations.ShiftRegister := by
  intro x y s
  constructor
  · refine ⟨decodeWord_of_eq_encode (concat_XYN 0x8 x y 0x6), _, rfl, ?half, fun hx => ?bit0,
      s.setFlagThenReg_frame _ x _⟩
    case half => rw [State.reg_setFlagThenReg_self, halfByte_toNat]
    case bit0 => rw [s.flag_setFlagThenReg_toNat _ _ hx, lowBitFlag_toNat]
  · refine ⟨decodeWord_of_eq_encode (concat_XYN 0x8 x y 0xE), _, rfl, ?double, fun hx => ?bit7,
      s.setFlagThenReg_frame _ x _⟩
    case double => rw [State.reg_setFlagThenReg_self, doubleByte_toNat]
    case bit7 => rw [s.flag_setFlagThenReg_toNat _ _ hx, highBitFlag_toNat]

/-- Settles O28: nothing is used of the drawn byte but that a bit which is 0 in the mask is 0 in the result. -/
theorem randomByteMasked : Obligations.RandomByteMasked := by
  intro x nn s
  refine ⟨decodeWord_of_eq_encode (concat_XI 0xC x nn), _, rfl, ?masked, fun b hb => ?cleared, rfl,
    State.frame_trans s.countDraw_frame (s.countDraw.setReg_frame x _)⟩
  case masked => rw [State.reg_setReg_self]
  case cleared => rw [State.reg_setReg_self, BitVec.getLsbD_and, hb, Bool.and_false]

end Sys2Proof

/-! SUPPORT. What a control transfer leaves behind (41 R112 to R122): the frames of a jump, a skip, a push and a pop;
where a skip goes; what `CALL` and `RET` answer; and a step whose word at `PC` is an encoding. -/

namespace Sys2Proof.Machine

variable {s t u : State}

/-! The frames. -/

theorem State.frame_refl (cs : List Part) (ws : List Nibble) (s : State) : State.frame cs ws s s :=
  ⟨fun _ _ => rfl, fun p _ => p.same_refl s⟩

/-- What two steps both leave unchanged, they leave unchanged together. -/
theorem State.frame_comp {cs : List Part} {ws : List Nibble} (h : State.frame cs ws s t)
    (h' : State.frame cs ws t u) : State.frame cs ws s u :=
  State.frame_mono (State.frame_trans h h') (by simp) (by simp)

theorem State.setPc_frame (s : State) (target : Word) : State.frame [.pc] [] s (s.setPc target) := by
  refine ⟨fun _ _ => rfl, fun p hp => ?_⟩
  cases p <;> simp [Part.same] at hp ⊢

theorem State.skipIf_frame (s : State) (c : Bool) : State.frame [.pc] [] s (s.skipIf c) := by
  cases c
  · exact State.frame_refl _ _ s
  · exact s.setPc_frame _

theorem State.pushPc_frame (s : State) : State.frame [.stack] [] s s.pushPc := by
  refine ⟨fun _ _ => rfl, fun p hp => ?_⟩
  cases p <;> simp [Part.same] at hp ⊢

theorem State.popPc_frame (s : State) : State.frame [.pc, .stack] [] s s.popPc := by
  refine ⟨fun _ _ => rfl, fun p hp => ?_⟩
  cases p <;> simp [Part.same] at hp ⊢

theorem State.call_frame (s : State) (target : Word) :
    State.frame [.pc, .stack] [] s (s.pushPc.setPc target) :=
  State.frame_mono (State.frame_trans s.pushPc_frame (s.pushPc.setPc_frame target)) (by simp) (by simp)

/-- The fetch changes `PC` only, which a call and a return change anyway. -/
theorem State.frame_of_skip (h : State.frame [.pc, .stack] [] s.skip t) : State.frame [.pc, .stack] [] s t :=
  State.frame_mono (State.frame_trans (s.setPc_frame _) h) (by simp) (by simp)

/-! Where a skip and a jump go. -/

/-- 41 R122: the one effect of the six skips, for the condition `P` that the flag `c` decides. -/
theorem State.skipIf_frame_and_pc (s : State) {c : Bool} {P : Prop} [Decidable P] (hc : c = true ↔ P) :
    State.frame [.pc] [] s (s.skipIf c) ∧
      (s.skipIf c).pc.toNat = if P then (s.pc.toNat + 2) % 65536 else s.pc.toNat := by
  refine ⟨s.skipIf_frame c, ?_⟩
  rw [State.skipIf_pc]
  by_cases hP : P
  · rw [if_pos (hc.2 hP), if_pos hP]
    exact BitVec.toNat_add s.pc 2
  · rw [if_neg (mt hc.1 hP), if_neg hP]

/-- An address of memory is the 12-bit operand that a jump to it carries (30 R76). -/
theorem addressWord_setWidth {w : Word} (hw : w.toNat ≤ 4095) : addressWord (w.setWidth 12) = w :=
  BitVec.eq_of_toNat_eq (by rw [addressWord_toNat, BitVec.toNat_setWidth]; omega)

/-! The two cases of a call and of a return. -/

theorem exec_call_of_room (nnn : Addr12) (h : s.sp < s.build.stackCapacity) :
    exec (.call nnn) s = .next (s.pushPc.setPc (addressWord nnn)) :=
  if_pos h

theorem exec_call_of_full (nnn : Addr12) (h : s.build.stackCapacity ≤ s.sp) :
    exec (.call nnn) s = .next (s.latchFault (.stackOverflow (encode (.call nnn)) s.pcFetch)) :=
  if_neg (Nat.not_lt.2 h)

theorem exec_ret_of_occupied (h : 0 < s.sp) : exec .ret s = .next s.popPc :=
  if_neg h.ne'

theorem exec_ret_of_empty (h : s.sp = 0) :
    exec .ret s = .next (s.latchFault (.stackUnderflow (encode .ret) s.pcFetch)) :=
  if_pos h

/-! A step whose word at `PC` is an encoding. -/

theorem step_of_encode {i : Instr} (hr : s.ready) (hp : s.pc.toNat ≤ 4094)
    (hw : s.wordAt s.pc.toNat = encode i) : step s = exec i s.skip :=
  step_of_decodeWord hr hp (Laws.decodeWord_of_eq_encode hw)

theorem step_call {nnn : Addr12} (hr : s.ready) (hp : s.pc.toNat ≤ 4094)
    (hw : s.wordAt s.pc.toNat = encode (.call nnn)) (h : s.sp < s.build.stackCapacity) :
    step s = .next (s.skip.pushPc.setPc (addressWord nnn)) :=
  (step_of_encode hr hp hw).trans (exec_call_of_room nnn h)

theorem step_ret (hr : s.ready) (hp : s.pc.toNat ≤ 4094) (hw : s.wordAt s.pc.toNat = encode .ret) (h : 0 < s.sp) :
    step s = .next s.skip.popPc :=
  (step_of_encode hr hp hw).trans (exec_ret_of_occupied h)

end Sys2Proof.Machine

namespace Sys2Proof

open Laws Machine

/-- Settles O29: the 12-bit address, zero-extended, is the new `PC`. -/
theorem jumpAbsolute : Obligations.JumpAbsolute := fun nnn s =>
  ⟨decodeWord_of_eq_encode (concat_A 0x1 nnn), _, rfl, addressWord_toNat nnn, s.setPc_frame _⟩

/-- Settles O30: the push writes the one slot at `SP`, and a full stack latches the record of the call. -/
theorem callPushesReturnAddress : Obligations.CallPushesReturnAddress := by
  intro nnn s
  refine ⟨decodeWord_of_eq_encode (concat_A 0x2 nnn), fun hroom => ?room, fun hfull => ?full⟩
  case room =>
    refine ⟨_, exec_call_of_room nnn hroom, ?pushed, rfl, addressWord_toNat nnn, fun k hk => ?kept, s.call_frame _⟩
    case pushed => rw [State.setPc_slot, State.slot_pushPc, if_pos rfl]
    case kept => rw [State.setPc_slot, State.slot_pushPc, if_neg hk]
  case full => exact exec_call_of_full nnn hfull.ge

/-- Settles O32: the pop moves `SP` and `PC` and writes no slot, and an empty stack latches the record of the return. -/
theorem returnPopsAddress : Obligations.ReturnPopsAddress := fun s =>
  ⟨decodeWord_encode .ret,
    fun hsp => ⟨_, exec_ret_of_occupied hsp, Nat.sub_add_cancel hsp, rfl, fun _ => rfl, s.popPc_frame⟩,
    exec_ret_of_empty⟩

/-- Settles O33: both are the one conditional skip, on a register against the immediate. -/
theorem skipOnImmediate : Obligations.SkipOnImmediate := fun x nn s =>
  ⟨⟨decodeWord_of_eq_encode (concat_XI 0x3 x nn), _, rfl, s.skipIf_frame_and_pc beq_iff_eq⟩,
    decodeWord_of_eq_encode (concat_XI 0x4 x nn), _, rfl, s.skipIf_frame_and_pc bne_iff_ne⟩

/-- Settles O34: both are the one conditional skip, on two registers; nothing reads the low nibble. -/
theorem skipOnRegisters : Obligations.SkipOnRegisters := fun x y z s =>
  ⟨⟨decodeWord_of_eq_encode (concat_XYN 0x5 x y z), _, rfl, s.skipIf_frame_and_pc beq_iff_eq⟩,
    decodeWord_of_eq_encode (concat_XYN 0x9 x y z), _, rfl, s.skipIf_frame_and_pc bne_iff_ne⟩

/-- Settles O35: both are the one conditional skip, on the 8-bit key compare and on its negation. -/
theorem skipOnKey : Obligations.SkipOnKey := by
  intro x s
  refine ⟨⟨decodeWord_of_eq_encode (concat_XI 0xE x 0x9E), _, rfl, s.skipIf_frame_and_pc (s.keyMatches_iff x)⟩,
    decodeWord_of_eq_encode (concat_XI 0xE x 0xA1), _, rfl, ?_⟩
  have hne : (!s.keyMatches x) = true ↔ ¬ s.key.map BitVec.toNat = some (s.reg x).toNat := by
    rw [Bool.not_eq_true', ← Bool.not_eq_true, s.keyMatches_iff]
  rw [← ite_not]
  exact s.skipIf_frame_and_pc hne

/-- Settles O36: the call pushes the address after it and writes no memory, so the return is fetched where the call
jumped to and pops that very address. -/
theorem callThenReturnResumes : Obligations.CallThenReturnResumes := by
  intro s nnn hready hpc hnnn hcall hret hroom
  have hfirst : step s = .next (s.skip.pushPc.setPc (addressWord nnn)) := step_call hready hpc hcall hroom
  generalize ht : s.skip.pushPc.setPc (addressWord nnn) = t at hfirst
  have htpc : t.pc.toNat = nnn.toNat := by rw [← ht, State.setPc_pc, addressWord_toNat]
  have htsp : t.sp = s.sp + 1 := by rw [← ht]; rfl
  have htslot (k : Nat) : t.slot k = if k = s.sp then s.pc + 2 else s.slot k := by
    rw [← ht]; exact s.skip.slot_pushPc k
  have htword : t.wordAt t.pc.toNat = encode .ret := by rw [htpc, ← ht]; exact hret
  have hsecond : step t = .next t.skip.popPc := step_ret (ht ▸ hready) (htpc ▸ hnnn) htword (by omega)
  refine ⟨t, _, hfirst, hsecond, htpc, ?resumes, ?sp, fun k hk => ?slot,
    State.frame_comp (State.frame_of_skip (ht ▸ s.skip.call_frame _)) (State.frame_of_skip t.skip.popPc_frame)⟩
  case resumes =>
    have hpop : t.skip.popPc.pc = s.pc + 2 := by simp [htsp, htslot]
    rw [hpop, toNat_add_two (by omega)]
  case sp => simp [htsp]
  case slot => simp [htslot, hk]

/-- Settles O37: the jump writes into `PC` the value it had before the fetch advanced it. -/
theorem selfJumpIsFixedPoint : Obligations.SelfJumpIsFixedPoint := by
  rintro s ⟨hrun, hfault, hpc, hword⟩
  have hjump : s.wordAt s.pc.toNat = encode (.jp (s.pc.setWidth 12)) :=
    BitVec.eq_of_toNat_eq (by
      rw [hword, encode, formatA_toNat, BitVec.toNat_setWidth, Nat.mod_eq_of_lt (by omega)]; rfl)
  calc step s = .next (s.skip.setPc (addressWord (s.pc.setWidth 12))) := step_of_encode ⟨hfault, hrun⟩ hpc hjump
    _ = .next (s.skip.setPc s.pc) := by rw [addressWord_setWidth (by omega)]
    _ = .next s := rfl

end Sys2Proof

/-! SUPPORT. The stores and loads at `I` (42 R126 to R131): the frames of the operations they are made of, the bytes of
a store from its first address on, and what each instruction answers when its last address is in memory and when it is
not. -/

namespace Sys2Proof.Machine

variable {s : State}

/-! The frames. -/

theorem State.setIndex_frame (s : State) (v : Word) : State.frame [.index] [] s (s.setIndex v) := by
  refine ⟨fun _ _ => rfl, fun p hp => ?_⟩
  cases p <;> simp [Part.same] at hp ⊢

theorem State.storeAtIndex_frame (s : State) (vs : List Byte) : State.frame [.mem] [] s (s.storeAtIndex vs) := by
  refine ⟨fun _ _ => rfl, fun p hp => ?_⟩
  cases p <;> simp [Part.same] at hp ⊢

theorem State.setRegsUpTo_frame (s : State) (r : Nibble) (values : Nat → Byte) :
    State.frame [] (nibblesUpTo r) s (s.setRegsUpTo r values) := by
  refine ⟨fun q hq => ?_, fun p _ => ?_⟩
  · rw [State.reg_setRegsUpTo, if_neg (mt mem_nibblesUpTo.2 hq)]
  · cases p <;> simp [Part.same]

/-! The bytes after a store. -/

theorem State.byteAt_storeAtIndex_inside (s : State) {vs : List Byte} {k : Nat} (hk : k < vs.length) :
    (s.storeAtIndex vs).byteAt (s.index.toNat + k) = vs.getD k 0 := by
  rw [State.byteAt_storeAtIndex, if_pos (by omega), Nat.add_sub_cancel_left]

theorem State.byteAt_storeAtIndex_outside (s : State) {vs : List Byte} {a : Nat}
    (ha : a < s.index.toNat ∨ s.index.toNat + vs.length ≤ a) : (s.storeAtIndex vs).byteAt a = s.byteAt a := by
  rw [State.byteAt_storeAtIndex, if_neg (by omega)]

/-- 42 R130: the block in memory is the block of registers. -/
theorem State.byteAt_storeAtIndex_regsUpTo (s : State) {x r : Nibble} (hr : r.toNat ≤ x.toNat) :
    (s.storeAtIndex (s.regsUpTo x)).byteAt (s.index.toNat + r.toNat) = s.reg r := by
  rw [s.byteAt_storeAtIndex_inside (by rw [State.length_regsUpTo]; omega), s.getD_regsUpTo x r hr]

/-- 42 R129: the three digits as numbers; each fits a byte. -/
theorem decimalDigits_toNat (v : Byte) :
    (decimalDigits v).map BitVec.toNat = [v.toNat / 100, v.toNat / 10 % 10, v.toNat % 10] := by
  have := v.isLt
  simp [decimalDigits]
  omega

theorem State.digit_storeAtIndex_toNat (s : State) (v : Byte) {k : Nat} (hk : k < 3) :
    ((s.storeAtIndex (decimalDigits v)).byteAt (s.index.toNat + k)).toNat =
      [v.toNat / 100, v.toNat / 10 % 10, v.toNat % 10].getD k 0 := by
  rw [s.byteAt_storeAtIndex_inside hk, ← decimalDigits_toNat]
  exact (List.getD_map (decimalDigits v) 0 BitVec.toNat).symm

/-! The range check by the last address of the access. -/

theorem State.guardRange_of_last_le (i : Instr) {last : Nat} (t : State) (h : s.index.toNat + last ≤ 4095) :
    s.guardRange i (last + 1) t = t :=
  s.guardRange_in i t (.inr h)

/-- 42 D13: the fault of an access that ends above memory, its record with the word `w` of the instruction however it
is written. -/
theorem State.guardRange_of_lt_last {i : Instr} {w : Word} {last : Nat} (t : State) (hw : w = encode i)
    (h : 4095 < s.index.toNat + last) : s.guardRange i (last + 1) t =
      { s with fault := some (.memoryOutOfRange (some w) (s.pc - 2) (max s.index.toNat 4096)) } :=
  hw ▸ s.guardRange_out i t last.succ_pos h

theorem exec_ldB_of_fits (x : Nibble) (h : s.index.toNat + 2 ≤ 4095) :
    exec (.ldB x) s = .next (s.storeAtIndex (decimalDigits (s.reg x))) :=
  congrArg Host.Outcome.next (State.guardRange_of_last_le _ _ h)

theorem exec_stRegs_of_fits (x : Nibble) (h : s.index.toNat + x.toNat ≤ 4095) :
    exec (.stRegs x) s = .next (s.storeAtIndex (s.regsUpTo x)) :=
  congrArg Host.Outcome.next (State.guardRange_of_last_le _ _ h)

theorem exec_ldRegs_of_fits (x : Nibble) (h : s.index.toNat + x.toNat ≤ 4095) :
    exec (.ldRegs x) s = .next (s.setRegsUpTo x fun j => s.byteAt (s.index.toNat + j)) :=
  congrArg Host.Outcome.next (State.guardRange_of_last_le _ _ h)

end Sys2Proof.Machine

namespace Sys2Proof

open Laws Machine

/-- Settles O39: the 12-bit address, zero-extended, is the new `I`. -/
theorem loadIndex : Obligations.LoadIndex := fun nnn s =>
  ⟨decodeWord_of_eq_encode (concat_A 0xA nnn), _, rfl, addressWord_toNat nnn, s.setIndex_frame _⟩

/-- Settles O42: in range the list of the three digits, each of which fits a byte, is stored from `I` on. -/
theorem storeDecimalDigits : Obligations.StoreDecimalDigits := by
  intro x s
  have hword : (0xF#4 ++ x ++ 0x33#8 : Word) = encode (.ldB x) := concat_XI 0xF x 0x33
  refine ⟨decodeWord_of_eq_encode hword, fun hfits => ?stored, fun hout => ?fault⟩
  case stored =>
    have hdigit {k : Nat} (hk : k < 3) := s.digit_storeAtIndex_toNat (s.reg x) hk
    exact ⟨_, exec_ldB_of_fits x hfits, hdigit (k := 0) (by omega), hdigit (k := 1) (by omega),
      hdigit (k := 2) (by omega), fun _ ha => s.byteAt_storeAtIndex_outside ha, s.storeAtIndex_frame _⟩
  case fault => exact congrArg Host.Outcome.next (State.guardRange_of_lt_last _ hword hout)

/-- Settles O43: in range the block of registers is stored from `I` on. -/
theorem storeRegisterBlock : Obligations.StoreRegisterBlock := by
  intro x s
  have hword : (0xF#4 ++ x ++ 0x55#8 : Word) = encode (.stRegs x) := concat_XI 0xF x 0x55
  refine ⟨decodeWord_of_eq_encode hword, fun hfits => ?stored, fun hout => ?fault⟩
  case stored =>
    refine ⟨_, exec_stRegs_of_fits x hfits, fun r hr => s.byteAt_storeAtIndex_regsUpTo hr, fun a ha => ?kept,
      s.storeAtIndex_frame _⟩
    exact s.byteAt_storeAtIndex_outside (by rw [State.length_regsUpTo]; omega)
  case fault => exact congrArg Host.Outcome.next (State.guardRange_of_lt_last _ hword hout)

/-- Settles O44: in range registers 0 to X are written, each from its own byte, and no other register. -/
theorem loadRegisterBlock : Obligations.LoadRegisterBlock := by
  intro x s
  have hword : (0xF#4 ++ x ++ 0x65#8 : Word) = encode (.ldRegs x) := concat_XI 0xF x 0x65
  refine ⟨decodeWord_of_eq_encode hword, fun hfits => ?loaded, fun hout => ?fault⟩
  case loaded =>
    refine ⟨_, exec_ldRegs_of_fits x hfits, fun r hr => ?block, fun r hr => ?above, s.setRegsUpTo_frame x _⟩
    case block => rw [State.reg_setRegsUpTo, if_pos hr]
    case above => rw [State.reg_setRegsUpTo, if_neg (Nat.not_le.2 hr)]
  case fault => exact congrArg Host.Outcome.next (State.guardRange_of_lt_last _ hword hout)

/-- Settles O45: the load reads the addresses that the store wrote, because `I` is the same, and finds the registers
there, because memory is the same. -/
theorem blockStoreThenLoadRestores : Obligations.BlockStoreThenLoadRestores := by
  intro x s t u v hfits hstore hindex hmem hload r hr
  cases (exec_stRegs_of_fits x hfits).symm.trans hstore
  cases (exec_ldRegs_of_fits x (hindex ▸ hfits)).symm.trans hload
  rw [State.reg_setRegsUpTo, if_pos hr, hmem, hindex, s.byteAt_storeAtIndex_regsUpTo hr]

end Sys2Proof

/-! SUPPORT. What a draw leaves behind (43 R135 to R140): the pixels it turns over, the collision in `VF`, the frame;
and what `DRW` answers in each of its three cases. -/

namespace Sys2Proof.Machine

variable {s t u : State} {x y n : Nibble} {x0 y0 k i : Nat}

/-! The drawing, once its checks have passed. -/

theorem State.drawSprite_frame (s : State) (px : List Nat) : State.frame [.fb, .dirty] [15] s (s.drawSprite px) := by
  refine ⟨fun q hq => ?_, fun p hp => ?_⟩
  · rw [State.reg_drawSprite, if_neg (List.ne_of_not_mem_cons hq)]
  · cases p <;> simp [Part.same] at hp ⊢

theorem State.pixel_drawSprite_of_inSprite (hk : k < 16) (hi : s.inSprite x0 y0 k i) :
    (s.drawSprite (s.spritePixels x0 y0 k)).pixel i = !s.pixel i := by
  rw [s.pixel_drawSprite x0 y0 k i hk, decide_eq_true (State.mem_spritePixels.2 hi), Bool.xor_true]

theorem State.pixel_drawSprite_of_not_inSprite (hk : k < 16) (hi : ¬ s.inSprite x0 y0 k i) :
    (s.drawSprite (s.spritePixels x0 y0 k)).pixel i = s.pixel i := by
  rw [s.pixel_drawSprite x0 y0 k i hk, decide_eq_false (mt State.mem_spritePixels.1 hi), Bool.xor_false]

theorem State.blit_spritePixels_hit_iff (hk : k < 16) :
    (blit (s.spritePixels x0 y0 k) s.fb false).2 = true ↔ ∃ i, s.inSprite x0 y0 k i ∧ s.pixel i = true := by
  rw [blit_hit (s.spritePixels_nodup x0 y0 k hk) fun _ => State.spritePixels_lt]
  simp [State.mem_spritePixels, State.pixel]

/-- 43 R138: `VF` is 1 iff the draw turned a pixel off. -/
theorem State.flag_drawSprite_eq_one_iff (hk : k < 16) :
    (s.drawSprite (s.spritePixels x0 y0 k)).reg 15 = 1 ↔ ∃ i, s.inSprite x0 y0 k i ∧ s.pixel i = true := by
  rw [State.reg_drawSprite, if_pos rfl, ← State.blit_spritePixels_hit_iff hk]
  split <;> simp [*]

theorem State.flag_drawSprite_eq_zero (hk : k < 16) (h : ∀ i, s.inSprite x0 y0 k i → s.pixel i = false) :
    (s.drawSprite (s.spritePixels x0 y0 k)).reg 15 = 0 := by
  have hmiss : ¬ (blit (s.spritePixels x0 y0 k) s.fb false).2 = true := by
    rw [State.blit_spritePixels_hit_iff hk]
    rintro ⟨i, hi, hon⟩
    rw [h i hi] at hon
    cases hon
  rw [State.reg_drawSprite, if_pos rfl, if_neg hmiss]

/-- The pixels of a sprite depend on its bytes and on the row policy only. -/
theorem State.inSprite_congr (hbuild : u.build = s.build)
    (hbytes : ∀ row, row < k → u.byteAt (u.index.toNat + row) = s.byteAt (s.index.toNat + row)) :
    u.inSprite x0 y0 k i ↔ s.inSprite x0 y0 k i := by
  unfold State.inSprite State.rowDrawnOn
  rw [hbuild]
  refine exists_congr fun row => exists_congr fun col => exists_congr fun r => and_congr_right fun hrow => ?_
  rw [hbytes row hrow]

/-! The three cases of `DRW`: the memory check, the row check, the drawing (60 R162). -/

theorem exec_drw_of_out_of_memory (x y : Nibble) (hn : 0 < n.toNat) (h : 4095 < s.index.toNat + n.toNat - 1) :
    exec (.drw x y n) s = .next
      (s.latchFault (.memoryOutOfRange (some (encode (.drw x y n))) s.pcFetch (max s.index.toNat 4096))) :=
  congrArg Host.Outcome.next (s.guardRange_out _ _ hn h)

theorem exec_drw_of_fits (x y : Nibble) (h : n.toNat = 0 ∨ s.index.toNat + n.toNat - 1 ≤ 4095) :
    exec (.drw x y n) s = .next (if s.rowFault (s.reg y).toNat n.toNat then
        s.latchFault (.drawOutOfRange (encode (.drw x y n)) s.pcFetch ((s.reg y).toNat + n.toNat - 1))
      else s.drawSprite (s.spritePixels (s.reg x).toNat (s.reg y).toNat n.toNat)) :=
  congrArg Host.Outcome.next (s.guardRange_in _ _ h)

theorem exec_drw_of_row_fault (x : Nibble) (h : n.toNat = 0 ∨ s.index.toNat + n.toNat - 1 ≤ 4095)
    (hrow : s.rowFault (s.reg y).toNat n.toNat = true) :
    exec (.drw x y n) s = .next
      (s.latchFault (.drawOutOfRange (encode (.drw x y n)) s.pcFetch ((s.reg y).toNat + n.toNat - 1))) := by
  rw [exec_drw_of_fits x y h, if_pos hrow]

theorem exec_drw_of_drawn (x : Nibble) (h : n.toNat = 0 ∨ s.index.toNat + n.toNat - 1 ≤ 4095)
    (hrow : ¬ s.rowFault (s.reg y).toNat n.toNat = true) :
    exec (.drw x y n) s = .next (s.drawSprite (s.spritePixels (s.reg x).toNat (s.reg y).toNat n.toNat)) := by
  rw [exec_drw_of_fits x y h, if_neg hrow]

/-- A draw that leaves the latch empty has passed both checks. -/
theorem eq_drawSprite_of_exec_drw (h : exec (.drw x y n) s = .next t) (ht : t.fault = none) :
    t = s.drawSprite (s.spritePixels (s.reg x).toNat (s.reg y).toNat n.toNat) := by
  by_cases hmem : n.toNat = 0 ∨ s.index.toNat + n.toNat - 1 ≤ 4095
  · by_cases hrow : s.rowFault (s.reg y).toNat n.toNat = true
    · cases (exec_drw_of_row_fault x hmem hrow).symm.trans h
      cases ht
    · cases (exec_drw_of_drawn x hmem hrow).symm.trans h
      rfl
  · cases (exec_drw_of_out_of_memory x y (by omega) (by omega)).symm.trans h
    cases ht

end Sys2Proof.Machine

namespace Sys2Proof

open Laws Machine

/-- Settles O49: past the two checks, each of which latches its fault and nothing else, the pixels that are visited are
those the sprite names, each once, so the draw turns over exactly these and its collision is one of them being on. -/
theorem drawSprite : Obligations.DrawSprite := by
  intro x y n s
  have hword : (0xD#4 ++ x ++ y ++ n : Word) = encode (.drw x y n) := concat_XYN 0xD x y n
  have hn := nibble_toNat_lt n
  rw [hword]
  refine ⟨decodeWord_encode _, fun hpos hout => ?memoryFault, fun hpos hfits hpolicy hrow => ?rowFault,
    fun hfits hrow => ?drawn⟩
  case memoryFault => exact exec_drw_of_out_of_memory x y hpos hout
  case rowFault => exact exec_drw_of_row_fault x (.inr hfits) ((s.rowFault_iff _ _).2 ⟨hpos, hrow, hpolicy⟩)
  case drawn =>
    have hpass : ¬ s.rowFault (s.reg y).toNat n.toNat = true := by
      rw [s.rowFault_iff]
      rintro ⟨hpos, hbelow, hpolicy⟩
      rcases hrow with hzero | hother | hscreen
      · omega
      · exact hother hpolicy
      · omega
    exact ⟨_, exec_drw_of_drawn x hfits hpass, fun _ => State.pixel_drawSprite_of_inSprite hn,
      fun _ => State.pixel_drawSprite_of_not_inSprite hn, (State.flag_drawSprite_eq_one_iff hn).2,
      State.flag_drawSprite_eq_zero hn, rfl, s.drawSprite_frame _⟩

/-- Settles O50: both draws name the same pixels, so each of these is turned over twice, and the second draw finds on
just those that were off before the first. -/
theorem drawTwiceRestores : Obligations.DrawTwiceRestores := by
  intro x y x' y' n s t u v hfirst ht hsecond hv hkept hbuild hx hy hbytes
  have hn := nibble_toNat_lt n
  have hsame (i : Nat) : u.inSprite (s.reg x).toNat (s.reg y).toNat n.toNat i ↔
      s.inSprite (s.reg x).toNat (s.reg y).toNat n.toNat i := State.inSprite_congr hbuild hbytes
  obtain rfl := eq_drawSprite_of_exec_drw hfirst ht
  obtain rfl := eq_drawSprite_of_exec_drw hsecond hv
  rw [hx, hy]
  refine ⟨fun i => ?restored, ?collision⟩
  case restored =>
    by_cases hi : s.inSprite (s.reg x).toNat (s.reg y).toNat n.toNat i
    · rw [State.pixel_drawSprite_of_inSprite hn ((hsame i).2 hi), hkept, State.pixel_drawSprite_of_inSprite hn hi,
        Bool.not_not]
    · rw [State.pixel_drawSprite_of_not_inSprite hn (mt (hsame i).1 hi), hkept,
        State.pixel_drawSprite_of_not_inSprite hn hi]
  case collision =>
    rw [State.flag_drawSprite_eq_one_iff hn]
    refine exists_congr fun i => (and_congr_left' (hsame i)).trans (and_congr_right fun hi => ?_)
    rw [hkept, State.pixel_drawSprite_of_inSprite hn hi, Bool.not_eq_true']

end Sys2Proof

/-! SUPPORT. The timers, the keys and the dirty flag from the host's side (44 R143 to R153, 10 R38): the frames of their
updates; the step of a pending key wait; and that no event reads the sound timer or the dirty flag. -/

namespace Sys2Proof.Machine

variable {s t : State} {r : Nibble}

/-! The frames. -/

theorem State.dt_frame (s : State) (v : Byte) : State.frame [.dt] [] s { s with dt := v } := by
  refine ⟨fun _ _ => rfl, fun p hp => ?_⟩
  cases p <;> simp [Part.same, State.slot, State.pixel, State.byteAt] at hp ⊢

theorem State.st_frame (s : State) (v : Byte) : State.frame [.st] [] s { s with st := v } := by
  refine ⟨fun _ _ => rfl, fun p hp => ?_⟩
  cases p <;> simp [Part.same, State.slot, State.pixel, State.byteAt] at hp ⊢

/-- 44 R149: the two timers one after the other, each by itself. -/
theorem State.tick_frame (s : State) : State.frame [.dt, .st] [] s s.tick :=
  State.frame_trans (s.dt_frame (countDown s.dt)) (State.st_frame _ (countDown s.st))

theorem State.setKey_frame (s : State) (k : Option Nibble) : State.frame [.key] [] s (s.setKey k) := by
  refine ⟨fun _ _ => rfl, fun p hp => ?_⟩
  cases p <;> simp [Part.same] at hp ⊢

theorem State.clearDirty_frame (s : State) : State.frame [.dirty] [] s s.clearDirty := by
  refine ⟨fun _ _ => rfl, fun p hp => ?_⟩
  cases p <;> simp [Part.same] at hp ⊢

/-! The state after an event. -/

theorem State.after_of_handle {e : Event} (h : handle e s = .next t) : s.after e = t := by
  rw [State.after, h]

/-- 70 R180, R181: both cases of a load. -/
theorem State.after_load (s : State) (bytes : List Byte) : s.after (.load bytes) =
    if bytes.length ≤ Config.programCapacity then
      { s.resetEvent with mem := Memory.writeBytes s.resetEvent.mem Config.loadOffset bytes }
    else s := by
  by_cases hfit : bytes.length ≤ Config.programCapacity
  · rw [if_pos hfit]
    exact State.after_of_handle (e := .load bytes) (if_pos hfit)
  · have hrefused : handle (.load bytes) s = .refused (.programTooLarge bytes.length Config.programCapacity) :=
      if_neg hfit
    rw [if_neg hfit, State.after, hrefused]

/-! The step of a pending key wait (44 R148). -/

theorem State.resolveKeyWait_of_key {k : Nibble} (h : s.key = some k) :
    s.resolveKeyWait r = { s.setReg r (keyByte k) with run := .running } := by
  rw [State.resolveKeyWait, h]

theorem State.resolveKeyWait_of_no_key (h : s.key = none) : s.resolveKeyWait r = s := by
  rw [State.resolveKeyWait, h]

theorem step_of_awaitingKey (hf : s.fault = none) (hr : s.run = .awaitingKey r) :
    step s = .next (s.resolveKeyWait r) := by
  have hbefore : s.beforeExecute = (s.resolveKeyWait r, none) := by simp [State.beforeExecute, hf, hr]
  rw [step, hbefore]

/-- A key for register `r` is awaited, no fault is latched and no key is there. -/
structure State.WaitsIdle (s : State) (r : Nibble) : Prop where
  noFault : s.fault = none
  awaiting : s.run = .awaitingKey r
  noKey : s.key = none

theorem State.WaitsIdle.step_eq (h : s.WaitsIdle r) : step s = .next s := by
  rw [step_of_awaitingKey h.noFault h.awaiting, State.resolveKeyWait_of_no_key h.noKey]

/-- The wait is in the latch, `RUN` and `KEY`, none of which is a timer or the dirty flag. -/
theorem State.WaitsIdle.of_frame (h : s.WaitsIdle r) (hst : State.frame [.dt, .st, .dirty] [] s t) :
    t.WaitsIdle r := by
  obtain ⟨-, hpart⟩ := hst
  have hfault : t.fault = s.fault := hpart .fault (by decide)
  have hrun : t.run = s.run := hpart .run (by decide)
  have hkey : t.key = s.key := hpart .key (by decide)
  exact ⟨hfault.trans h.noFault, hrun.trans h.awaiting, hkey.trans h.noKey⟩

/-- The events that neither start the machine again nor set the key. -/
def Event.leavesKey (e : Event) : Prop :=
  e ≠ .reset ∧ (∀ bs : List Byte, e ≠ .load bs) ∧ ∀ k, e ≠ .setKey k

theorem State.WaitsIdle.after_frame {e : Event} (h : s.WaitsIdle r) (he : e.leavesKey) :
    State.frame [.dt, .st, .dirty] [] s (s.after e) := by
  obtain ⟨hreset, hload, hkey⟩ := he
  cases e with
  | reset => exact absurd rfl hreset
  | load bytes => exact absurd rfl (hload bytes)
  | setKey k => exact absurd rfl (hkey k)
  | step =>
    have hstay : s.after .step = s := State.after_of_handle h.step_eq
    rw [hstay]
    exact State.frame_refl _ _ s
  | tick => exact State.frame_mono s.tick_frame (by decide) (by simp)
  | clearDirty => exact State.frame_mono s.clearDirty_frame (by decide) (by simp)
  | isDirty | readFb => exact State.frame_refl _ _ s

theorem State.WaitsIdle.runEvents_frame {es : List Event} (h : s.WaitsIdle r) (hes : ∀ e ∈ es, e.leavesKey) :
    State.frame [.dt, .st, .dirty] [] s (runEvents s es) := by
  induction es generalizing s with
  | nil => exact State.frame_refl _ _ s
  | cons e es ih =>
    obtain ⟨he, hrest⟩ := List.forall_mem_cons.1 hes
    have hfirst := h.after_frame he
    exact State.frame_comp hfirst (ih (h.of_frame hfirst) hrest)

/-- `set_key(none)` after `set_key(k)` undoes it where no key was there. -/
theorem State.setKey_setKey_none (k : Nibble) (h : s.key = none) : (s.setKey (some k)).setKey none = s := by
  simp [State.setKey, ← h]

/-! Two states that differ only in the sound timer and the dirty flag (44 R153, 10 R38). -/

/-- The state with another sound timer and another dirty flag. -/
def State.withUnobserved (s : State) (v : Byte) (b : Bool) : State := { s with st := v, dirty := b }

/-- From `s` to `s'` at most the sound timer and the dirty flag differ. -/
def State.AgreesObserved (s s' : State) : Prop := ∃ v b, s' = s.withUnobserved v b

theorem State.AgreesObserved.refl (s : State) : s.AgreesObserved s := ⟨s.st, s.dirty, rfl⟩

section
variable {v : Byte} {b : Bool}

theorem State.withUnobserved_agrees : s.AgreesObserved (s.withUnobserved v b) := ⟨v, b, rfl⟩

@[simp] theorem State.withUnobserved_index : (s.withUnobserved v b).index = s.index := rfl
@[simp] theorem State.withUnobserved_pc : (s.withUnobserved v b).pc = s.pc := rfl
@[simp] theorem State.withUnobserved_key : (s.withUnobserved v b).key = s.key := rfl
@[simp] theorem State.withUnobserved_run : (s.withUnobserved v b).run = s.run := rfl
@[simp] theorem State.withUnobserved_fault : (s.withUnobserved v b).fault = s.fault := rfl
@[simp] theorem State.withUnobserved_canFetch : (s.withUnobserved v b).canFetch = s.canFetch := rfl
@[simp] theorem State.withUnobserved_reg (q : Nibble) : (s.withUnobserved v b).reg q = s.reg q := rfl
@[simp] theorem State.withUnobserved_rowFault (y0 n : Nat) :
    (s.withUnobserved v b).rowFault y0 n = s.rowFault y0 n := rfl
@[simp] theorem State.withUnobserved_wordAt (a : Nat) : (s.withUnobserved v b).wordAt a = s.wordAt a := rfl

theorem State.withUnobserved_fetchFault :
    (s.withUnobserved v b).fetchFault = s.fetchFault.withUnobserved v b := rfl

theorem State.withUnobserved_skipIf (c : Bool) :
    (s.withUnobserved v b).skipIf c = (s.skipIf c).withUnobserved v b := by
  cases c <;> rfl

theorem State.withUnobserved_resolveKeyWait :
    (s.withUnobserved v b).resolveKeyWait r = (s.resolveKeyWait r).withUnobserved v b := by
  unfold State.resolveKeyWait
  rw [State.withUnobserved_key]
  cases s.key <;> rfl

theorem State.withUnobserved_fetchDecode :
    (s.withUnobserved v b).fetchDecode = (s.fetchDecode.1.withUnobserved v b, s.fetchDecode.2) := by
  unfold State.fetchDecode
  rw [State.withUnobserved_wordAt, State.withUnobserved_pc]
  cases decodeWord (s.wordAt s.pc.toNat) <;> rfl

/-- What comes before the execute part neither reads nor writes the two. -/
theorem State.withUnobserved_beforeExecute :
    (s.withUnobserved v b).beforeExecute = (s.beforeExecute.1.withUnobserved v b, s.beforeExecute.2) := by
  unfold State.beforeExecute
  rw [State.withUnobserved_fault, State.withUnobserved_run, State.withUnobserved_canFetch,
    State.withUnobserved_fetchDecode, State.withUnobserved_fetchFault]
  cases s.fault with
  | some f => rfl
  | none =>
    cases s.run with
    | awaitingKey q => simp [State.withUnobserved_resolveKeyWait]
    | running => cases s.canFetch <;> rfl

/-- The range check agrees where the accesses it guards do: it reads `I` alone. -/
theorem State.AgreesObserved.guardRange {t' : State} (h : t.AgreesObserved t') (i : Instr) (len : Nat) :
    (s.guardRange i len t).AgreesObserved ((s.withUnobserved v b).guardRange i len t') := by
  unfold State.guardRange
  rw [State.withUnobserved_index]
  cases outOfRange s.index.toNat len with
  | none => exact h
  | some a => exact State.withUnobserved_agrees

end

/-- Two outcomes that agree: next states that do. -/
def OutcomesAgree (o o' : Host.Outcome State Fault Refusal) : Prop :=
  ∃ t t', o = .next t ∧ o' = .next t' ∧ t.AgreesObserved t'

theorem OutcomesAgree.next {t' : State} (h : t.AgreesObserved t') : OutcomesAgree (.next t) (.next t') :=
  ⟨t, t', rfl, rfl, h⟩

section
variable {v : Byte} {b : Bool}

theorem exec_call_agrees (nnn : Addr12) :
    OutcomesAgree (exec (.call nnn) s) (exec (.call nnn) (s.withUnobserved v b)) := by
  by_cases hroom : s.sp < s.build.stackCapacity
  · exact ⟨_, _, if_pos hroom, if_pos hroom, v, b, rfl⟩
  · exact ⟨_, _, if_neg hroom, if_neg hroom, v, b, rfl⟩

theorem exec_ret_agrees : OutcomesAgree (exec .ret s) (exec .ret (s.withUnobserved v b)) := by
  by_cases hempty : s.sp = 0
  · exact ⟨_, _, if_pos hempty, if_pos hempty, v, b, rfl⟩
  · exact ⟨_, _, if_neg hempty, if_neg hempty, v, b, rfl⟩

theorem exec_ldVxK_agrees (x : Nibble) :
    OutcomesAgree (exec (.ldVxK x) s) (exec (.ldVxK x) (s.withUnobserved v b)) := by
  simp only [exec, execLdVxK, State.withUnobserved_key]
  cases s.key <;> exact .next ⟨v, b, rfl⟩

/-- 43 R140: a draw that passes its checks sets the dirty flag, whatever it was. -/
theorem exec_drw_agrees (x y n : Nibble) :
    OutcomesAgree (exec (.drw x y n) s) (exec (.drw x y n) (s.withUnobserved v b)) := by
  refine .next (State.AgreesObserved.guardRange ?_ _ _)
  rw [State.withUnobserved_reg, State.withUnobserved_rowFault]
  by_cases hrow : s.rowFault (s.reg y).toNat n.toNat = true
  · rw [if_pos hrow, if_pos hrow]
    exact ⟨v, b, rfl⟩
  · rw [if_neg hrow, if_neg hrow]
    exact ⟨v, true, rfl⟩

/-- No instruction reads the two: `LD ST, Vx` gives `ST`, and `CLS` and `DRW` give `DIRTY`, the same value. -/
theorem exec_agrees (i : Instr) : OutcomesAgree (exec i s) (exec i (s.withUnobserved v b)) := by
  cases i with
  | ldImm | addImm | ldReg | orReg | andReg | xorReg | addReg | subReg | shr | subnReg | shl | rnd
  | ldI | addI | ldF | ldVxDt | ldDtVx | jp | jpV0 => exact .next ⟨v, b, rfl⟩
  | seImm | sneImm | seReg | sneReg | skp | sknp => exact .next ⟨v, b, State.withUnobserved_skipIf _⟩
  | ldStVx x => exact .next ⟨s.reg x, b, rfl⟩
  | cls => exact .next ⟨v, true, rfl⟩
  | ldB | stRegs | ldRegs => exact .next (State.AgreesObserved.guardRange ⟨v, b, rfl⟩ _ _)
  | call nnn => exact exec_call_agrees nnn
  | ret => exact exec_ret_agrees
  | drw x y n => exact exec_drw_agrees x y n
  | ldVxK x => exact exec_ldVxK_agrees x

theorem step_agrees : OutcomesAgree (step s) (step (s.withUnobserved v b)) := by
  unfold step
  rw [State.withUnobserved_beforeExecute]
  obtain ⟨u, found⟩ := s.beforeExecute
  cases found with
  | none => exact .next ⟨v, b, rfl⟩
  | some i => exact exec_agrees i

/-- A load keeps of the state before it only the draws and the build, or, refused, everything. -/
theorem State.after_load_agrees (bytes : List Byte) :
    (s.after (.load bytes)).AgreesObserved ((s.withUnobserved v b).after (.load bytes)) := by
  rw [State.after_load, State.after_load]
  split
  · exact .refl _
  · exact ⟨v, b, rfl⟩

theorem State.after_agrees (e : Event) : (s.after e).AgreesObserved ((s.withUnobserved v b).after e) := by
  cases e with
  | reset => exact .refl s.resetEvent
  | load bytes => exact State.after_load_agrees bytes
  | step =>
    obtain ⟨t, t', ht, ht', hagree⟩ := step_agrees (s := s) (v := v) (b := b)
    rw [State.after_of_handle (e := .step) ht, State.after_of_handle (e := .step) ht']
    exact hagree
  | tick => exact ⟨countDown v, b, rfl⟩
  | clearDirty => exact ⟨v, false, rfl⟩
  | setKey | isDirty | readFb => exact ⟨v, b, rfl⟩

end

end Sys2Proof.Machine

namespace Sys2Proof

open Laws Machine

/-- Settles O54: each of the listed events leaves the latch, `RUN` and `KEY`, so the next one finds the same wait; a
key set and taken back before a step leaves the state it found, which the step keeps. -/
theorem keyWaitPersists : Obligations.KeyWaitPersists := by
  intro s r hfault hrun hkey
  have hwait : s.WaitsIdle r := ⟨hfault, hrun, hkey⟩
  refine ⟨fun es hes => hwait.runEvents_frame hes, fun k => ?_⟩
  calc runEvents s [.setKey (some k), .setKey none, .step]
      = ((s.setKey (some k)).setKey none).after .step := rfl
    _ = s.after .step := by rw [State.setKey_setKey_none k hkey]
    _ = s := State.after_of_handle hwait.step_eq

/-- Settles O56: no event reads the two, so each leaves two states that agree in the rest agreeing in the rest. -/
theorem soundTimerAndDirtyUnobserved : Obligations.SoundTimerAndDirtyUnobserved :=
  fun _ e _ _ => State.after_agrees e

/-- Settles O15: both timers count down, and nothing else is in the tick. -/
theorem tickCountsDown : Obligations.TickCountsDown := fun s =>
  ⟨_, rfl, countDown_toNat s.dt, countDown_toNat s.st, s.tick_frame⟩

/-- Settles O16: the key alone changes, and the step after it delivers that key to the awaiting register. -/
theorem setKeyOnlySetsKey : Obligations.SetKeyOnlySetsKey := by
  intro s k
  refine ⟨_, rfl, rfl, s.setKey_frame k, fun r n hfault hrun hk => ?_⟩
  have hstep : step (s.setKey k) = .next ((s.setKey k).resolveKeyWait r) := step_of_awaitingKey hfault hrun
  rw [State.resolveKeyWait_of_key hk] at hstep
  refine ⟨_, hstep, ?_, rfl⟩
  calc (((s.setKey k).setReg r (keyByte n)).reg r).toNat
      = (keyByte n).toNat := by rw [State.reg_setReg_self]
    _ = n.toNat := keyByte_toNat n

/-- Settles O52: each of the three writes one piece with the byte it reads. -/
theorem timerMoves : Obligations.TimerMoves := fun x s =>
  ⟨⟨decodeWord_of_eq_encode (concat_XI 0xF x 0x07), _, rfl, s.reg_setReg_self x s.dt, s.setReg_frame x s.dt⟩,
    ⟨decodeWord_of_eq_encode (concat_XI 0xF x 0x15), _, rfl, rfl, s.dt_frame (s.reg x)⟩,
    decodeWord_of_eq_encode (concat_XI 0xF x 0x18), _, rfl, rfl, s.st_frame (s.reg x)⟩

end Sys2Proof

/-! SUPPORT. The cases of a step that execute no instruction, forwards, and what a latched fault survives (41 R111,
60 R156, R159, R163). -/

namespace Sys2Proof.Machine

variable {s : State} {f : Fault}

theorem step_of_latched (hf : s.fault = some f) : step s = .next s := by
  have hbefore : s.beforeExecute = (s, none) := by simp [State.beforeExecute, hf]
  rw [step, hbefore]

theorem step_of_fetch_out_of_range (hr : s.ready) (hp : 4094 < s.pc.toNat) : step s = .next s.fetchFault := by
  obtain ⟨hfault, hrun⟩ := hr
  have hfetch : s.canFetch = false := Bool.eq_false_iff.2 (mt s.canFetch_iff.1 (Nat.not_le.2 hp))
  have hbefore : s.beforeExecute = (s.fetchFault, none) := by simp [State.beforeExecute, hfault, hrun, hfetch]
  rw [step, hbefore]

theorem step_of_decodeWord_error {e : DecodeError} (hr : s.ready) (hp : s.pc.toNat ≤ 4094)
    (hd : decodeWord (s.wordAt s.pc.toNat) = .error e) :
    step s = .next (s.skip.latchFault (.unknownInstruction (s.wordAt s.pc.toNat) s.pc)) := by
  obtain ⟨hfault, hrun⟩ := hr
  have hfetch : s.canFetch = true := s.canFetch_iff.2 hp
  have hbefore : s.beforeExecute =
      (s.skip.latchFault (.unknownInstruction (s.wordAt s.pc.toNat) s.pc), none) := by
    simp [State.beforeExecute, State.fetchDecode, hfault, hrun, hfetch, hd]
  rw [step, hbefore]

/-- 44 R148: delivering the key writes the awaiting register and ends the wait. -/
theorem State.deliverKey_frame (s : State) (r : Nibble) (v : Byte) :
    State.frame [.run] [r] s { s.setReg r v with run := .running } := by
  have hrun : State.frame [.run] [] (s.setReg r v) { s.setReg r v with run := .running } := by
    refine ⟨fun _ _ => rfl, fun p hp => ?_⟩
    cases p <;> simp [Part.same, State.slot, State.pixel, State.byteAt] at hp ⊢
  exact State.frame_trans (s.setReg_frame r v) hrun

/-- 60 R161: an image that does not fit is refused. -/
theorem handle_load_of_too_large {bytes : List Byte} (h : 3584 < bytes.length) :
    handle (.load bytes) s = .refused (.programTooLarge bytes.length 3584) :=
  if_neg (Nat.not_le.2 h)

theorem State.after_load_of_too_large {bytes : List Byte} (h : 3584 < bytes.length) :
    s.after (.load bytes) = s := by
  rw [State.after, handle_load_of_too_large h]

/-- 60 R165: only `reset()` and a load that fits clear the latch. -/
theorem State.fault_after_of_latched {e : Event} (hf : s.fault = some f) (hreset : e ≠ .reset)
    (hload : ∀ bs : List Byte, bs.length ≤ 3584 → e ≠ .load bs) : (s.after e).fault = some f := by
  cases e with
  | reset => exact absurd rfl hreset
  | load bytes =>
    have hlarge : 3584 < bytes.length := Nat.not_le.1 fun hfit => hload bytes hfit rfl
    rw [State.after_load_of_too_large hlarge, hf]
  | step =>
    have hstay : s.after .step = s := State.after_of_handle (step_of_latched hf)
    rw [hstay, hf]
  | tick | setKey | clearDirty | isDirty | readFb => exact hf

end Sys2Proof.Machine

namespace Sys2Proof.Laws

/-- 30 R87: a word of no row is no instruction, for an instruction's word is of its instruction's row. -/
theorem exists_decodeWord_error_of_no_row {w : Word} (h : ∀ r ∈ opcodeRows, w &&& r.mask ≠ r.pattern) :
    ∃ e, decodeWord w = .error e := by
  cases hd : decodeWord w with
  | error e => exact ⟨e, rfl⟩
  | ok i => exact absurd (decodeWord_and_mask hd) (h i.row (row_mem_opcodeRows i))

end Sys2Proof.Laws

namespace Sys2Proof

open Laws Machine

/-- Settles O7: each case of the step is one lemma about the state it starts from. -/
theorem stepAlgorithm : Obligations.StepAlgorithm := by
  intro s
  refine ⟨fun f hf => ⟨step_of_latched hf, hf⟩, fun r hf hrun hkey => State.WaitsIdle.step_eq ⟨hf, hrun, hkey⟩,
    fun r k hf hrun hkey => ?resolved, fun hready hpc => step_of_fetch_out_of_range hready hpc,
    fun hready hpc hrows => ?unknown, fun i hready hpc hd => step_of_decodeWord hready hpc hd⟩
  case resolved =>
    have hstep : step s = .next (s.resolveKeyWait r) := step_of_awaitingKey hf hrun
    rw [State.resolveKeyWait_of_key hkey] at hstep
    refine ⟨_, hstep, ?_, rfl, s.deliverKey_frame r (keyByte k)⟩
    calc ((s.setReg r (keyByte k)).reg r).toNat
        = (keyByte k).toNat := by rw [State.reg_setReg_self]
      _ = k.toNat := keyByte_toNat k
  case unknown =>
    obtain ⟨e, hd⟩ := exists_decodeWord_error_of_no_row hrows
    exact step_of_decodeWord_error hready hpc hd

/-- Settles O11: a step from a latched fault stays, a refused load stays, and no other event but the two that start
the machine again writes the latch. -/
theorem firstFaultStays : Obligations.FirstFaultStays := fun _ _ hf =>
  ⟨step_of_latched hf, fun _ hlarge => ⟨handle_load_of_too_large hlarge, State.after_load_of_too_large hlarge⟩,
    fun _ hreset hload => State.fault_after_of_latched hf hreset hload⟩

end Sys2Proof

/-! SUPPORT. The state that `reset()` leaves, piece by piece, and the placing of an image over it (70 R179, R180). -/

namespace Sys2Proof.Machine

variable {s : State}

/-! Memory that nothing has written (20 R63, 10 R44). -/

theorem Memory.length_font : Memory.font.length = 80 := by decide

theorem Memory.read_nil (a : Nat) : Memory.read [] a = Memory.font.getD a 0 := rfl

/-- The font is all that is not 0 in memory that nothing has written. -/
theorem Memory.read_nil_above_font {a : Nat} (ha : 80 ≤ a) : Memory.read [] a = 0 := by
  rw [Memory.read_nil, List.getD_eq_default _ _ (Memory.length_font.le.trans ha)]

/-! The state after `reset()`. -/

theorem State.reg_resetEvent (s : State) (r : Nibble) : s.resetEvent.reg r = 0 :=
  Vector.getElem_replicate r.isLt

/-- The reset framebuffer is the one that `CLS` leaves (43 R134). -/
theorem State.pixel_resetEvent (s : State) (i : Nat) : s.resetEvent.pixel i = false :=
  Bitmap.get_clear i

theorem State.resetEvent_hasResetValues (s : State) : s.resetEvent.hasResetValues where
  regs := s.reg_resetEvent
  index := rfl
  pc := rfl
  sp := rfl
  stack _ := rfl
  dt := rfl
  st := rfl
  fb := s.pixel_resetEvent
  dirty := rfl
  key := rfl
  run := rfl
  fault := rfl
  font i _ := Memory.read_nil i
  memory _ ha := Memory.read_nil_above_font ha

/-! The image of a load that fits. -/

/-- The state with the image stored from `LOAD_OFFSET` on: what a load does after its reset (70 R180). -/
def State.placeImage (s : State) (bytes : List Byte) : State :=
  { s with mem := Memory.writeBytes s.mem Config.loadOffset bytes }

theorem State.byteAt_placeImage (s : State) (bytes : List Byte) (a : Nat) : (s.placeImage bytes).byteAt a =
    if 512 ≤ a ∧ a < 512 + bytes.length then bytes.getD (a - 512) 0 else s.byteAt a :=
  Memory.read_writeBytes _ _ _ _

theorem State.byteAt_placeImage_inside (s : State) {bytes : List Byte} {i : Nat} (hi : i < bytes.length) :
    (s.placeImage bytes).byteAt (512 + i) = bytes.getD i 0 := by
  rw [State.byteAt_placeImage, if_pos (by omega), Nat.add_sub_cancel_left]

theorem State.byteAt_placeImage_outside (s : State) {bytes : List Byte} {a : Nat}
    (ha : a < 512 ∨ 512 + bytes.length ≤ a) : (s.placeImage bytes).byteAt a = s.byteAt a := by
  rw [State.byteAt_placeImage, if_neg (by omega)]

theorem State.placeImage_frame (s : State) (bytes : List Byte) : State.frame [.mem] [] s (s.placeImage bytes) := by
  refine ⟨fun _ _ => rfl, fun p hp => ?_⟩
  cases p <;> simp [Part.same, State.placeImage, State.slot, State.pixel] at hp ⊢

/-- 70 R180: an image that fits is placed over the state that `reset()` leaves. -/
theorem handle_load_of_fits {bytes : List Byte} (h : bytes.length ≤ 3584) :
    handle (.load bytes) s = .next (s.resetEvent.placeImage bytes) :=
  if_pos h

end Sys2Proof.Machine

namespace Sys2Proof

open Machine

/-- Settles O13: the load is the reset and then one run of stores from 512 on, which writes nothing but its own bytes. -/
theorem loadPlacesImage : Obligations.LoadPlacesImage := fun s bytes hfits =>
  ⟨s.resetEvent.placeImage bytes, s.resetEvent, handle_load_of_fits hfits, rfl, s.resetEvent_hasResetValues,
    s.resetEvent.placeImage_frame bytes, fun _ hi => s.resetEvent.byteAt_placeImage_inside hi,
    fun _ ha => s.resetEvent.byteAt_placeImage_outside ha⟩

end Sys2Proof

/-! SUPPORT. What the execute part of an instruction answers, said once: always a next state, in which it has either
raised a fault and done nothing else or left the latch alone and kept to its footprint (10 R45, 60 R163, R164). -/

namespace Sys2Proof.Machine

variable {s t : State} {i : Instr}

/-! The frames of the updates that have none yet. -/

theorem State.latchFault_frame (s : State) (f : Fault) : State.frame [.fault] [] s (s.latchFault f) := by
  refine ⟨fun _ _ => rfl, fun p hp => ?_⟩
  cases p <;> simp [Part.same] at hp ⊢

theorem State.setFb_frame (s : State) (fb : Bitmap) : State.frame [.fb, .dirty] [] s (s.setFb fb) := by
  refine ⟨fun _ _ => rfl, fun p hp => ?_⟩
  cases p <;> simp [Part.same] at hp ⊢

theorem State.run_frame (s : State) (r : RunState) : State.frame [.run] [] s { s with run := r } := by
  refine ⟨fun _ _ => rfl, fun p hp => ?_⟩
  cases p <;> simp [Part.same, State.slot, State.pixel, State.byteAt] at hp ⊢

theorem State.resolveKeyWait_frame (s : State) (r : Nibble) : State.frame [.run] [r] s (s.resolveKeyWait r) := by
  cases hkey : s.key with
  | some k =>
    rw [State.resolveKeyWait_of_key hkey]
    exact s.deliverKey_frame r (keyByte k)
  | none =>
    rw [State.resolveKeyWait_of_no_key hkey]
    exact State.frame_refl _ _ s

/-! The two ways an instruction ends. -/

/-- From `s` to `t` the instruction raises a fault: only the latch changes, and its record holds the instruction's word
and fetch address. -/
def Raises (i : Instr) (s t : State) : Prop :=
  Part.fault ∈ i.mayChange ∧ ∃ f : Fault, t = s.latchFault f ∧ f.word = some (encode i) ∧ f.pcFetch = s.pcFetch

/-- From `s` to `t` the instruction completes: the latch is as before, and nothing outside the footprint changes. -/
def Completes (i : Instr) (s t : State) : Prop :=
  t.fault = s.fault ∧ State.frame i.mayChange i.mayWrite s t

theorem Completes.guardRange {len : Nat} (h : Completes i s t) (hf : Part.fault ∈ i.mayChange) :
    Raises i s (s.guardRange i len t) ∨ Completes i s (s.guardRange i len t) := by
  rcases s.guardRange_cases i len t with ⟨e, -⟩ | ⟨e, -⟩
  · exact .inr (e.symm ▸ h)
  · exact .inl ⟨hf, _, e, rfl, rfl⟩

theorem exec_call_outcome (nnn : Addr12) (s : State) :
    ∃ t, exec (.call nnn) s = .next t ∧ (Raises (.call nnn) s t ∨ Completes (.call nnn) s t) := by
  by_cases hroom : s.sp < s.build.stackCapacity
  · have hframe : State.frame [.pc, .stack] [] s (s.pushPc.setPc (addressWord nnn)) := s.call_frame _
    exact ⟨_, exec_call_of_room nnn hroom, .inr ⟨rfl, State.frame_mono hframe (by simp [Instr.mayChange]) (by simp)⟩⟩
  · exact ⟨_, exec_call_of_full nnn (Nat.not_lt.1 hroom), .inl ⟨by simp [Instr.mayChange], _, rfl, rfl, rfl⟩⟩

theorem exec_ret_outcome (s : State) : ∃ t, exec .ret s = .next t ∧ (Raises .ret s t ∨ Completes .ret s t) := by
  by_cases hempty : s.sp = 0
  · exact ⟨_, exec_ret_of_empty hempty, .inl ⟨by simp [Instr.mayChange], _, rfl, rfl, rfl⟩⟩
  · have hframe : State.frame [.pc, .stack] [] s s.popPc := s.popPc_frame
    exact ⟨_, exec_ret_of_occupied (Nat.pos_of_ne_zero hempty),
      .inr ⟨rfl, State.frame_mono hframe (by simp [Instr.mayChange]) (by simp)⟩⟩

theorem exec_drw_outcome (x y n : Nibble) (s : State) :
    ∃ t, exec (.drw x y n) s = .next t ∧ (Raises (.drw x y n) s t ∨ Completes (.drw x y n) s t) := by
  have hlatch : Part.fault ∈ (Instr.drw x y n).mayChange := by simp [Instr.mayChange]
  by_cases hmem : n.toNat = 0 ∨ s.index.toNat + n.toNat - 1 ≤ 4095
  · by_cases hrow : s.rowFault (s.reg y).toNat n.toNat = true
    · exact ⟨_, exec_drw_of_row_fault x hmem hrow, .inl ⟨hlatch, _, rfl, rfl, rfl⟩⟩
    · exact ⟨_, exec_drw_of_drawn x hmem hrow,
        .inr ⟨rfl, State.frame_mono (s.drawSprite_frame _) (by simp [Instr.mayChange]) (by simp [Instr.mayWrite])⟩⟩
  · exact ⟨_, exec_drw_of_out_of_memory x y (by omega) (by omega), .inl ⟨hlatch, _, rfl, rfl, rfl⟩⟩

/-- 44 R147: both cases of the key wait. -/
theorem exec_ldVxK_of_key {k : Nibble} (x : Nibble) (h : s.key = some k) :
    exec (.ldVxK x) s = .next (s.setReg x (keyByte k)) := by
  simp only [exec, execLdVxK, h]

theorem exec_ldVxK_of_no_key (x : Nibble) (h : s.key = none) :
    exec (.ldVxK x) s = .next { s with run := .awaitingKey x } := by
  simp only [exec, execLdVxK, h]

theorem exec_ldVxK_outcome (x : Nibble) (s : State) :
    ∃ t, exec (.ldVxK x) s = .next t ∧ Completes (.ldVxK x) s t := by
  cases hkey : s.key with
  | some k => exact ⟨_, exec_ldVxK_of_key x hkey, rfl, State.frame_mono (s.setReg_frame x _) (by simp) (.refl _)⟩
  | none => exact ⟨_, exec_ldVxK_of_no_key x hkey, rfl, State.frame_mono (s.run_frame _) (.refl _) (by simp)⟩

/-- Everything an instruction can do: it answers a next state, and it raises a fault or completes. -/
theorem exec_outcome (i : Instr) (s : State) : ∃ t, exec i s = .next t ∧ (Raises i s t ∨ Completes i s t) := by
  cases i with
  | ldImm | addImm | ldReg | orReg | andReg | xorReg | ldVxDt => exact ⟨_, rfl, .inr ⟨rfl, s.setReg_frame _ _⟩⟩
  | addReg | subReg | shr | subnReg | shl => exact ⟨_, rfl, .inr ⟨rfl, s.setFlagThenReg_frame _ _ _⟩⟩
  | rnd x nn =>
    exact ⟨_, rfl, .inr ⟨rfl, State.frame_trans s.countDraw_frame (s.countDraw.setReg_frame x _)⟩⟩
  | jp | jpV0 => exact ⟨_, rfl, .inr ⟨rfl, s.setPc_frame _⟩⟩
  | seImm | sneImm | seReg | sneReg | skp | sknp => exact ⟨_, rfl, .inr ⟨s.skipIf_fault _, s.skipIf_frame _⟩⟩
  | call nnn => exact exec_call_outcome nnn s
  | ret => exact exec_ret_outcome s
  | ldI | addI | ldF => exact ⟨_, rfl, .inr ⟨rfl, s.setIndex_frame _⟩⟩
  | ldB | stRegs =>
    refine ⟨_, rfl, Completes.guardRange ⟨rfl, State.frame_mono (s.storeAtIndex_frame _) ?_ (.refl _)⟩ ?_⟩
    all_goals simp [Instr.mayChange]
  | ldRegs x =>
    refine ⟨_, rfl, Completes.guardRange ⟨rfl, State.frame_mono (s.setRegsUpTo_frame x _) ?_ (.refl _)⟩ ?_⟩
    all_goals simp [Instr.mayChange]
  | cls => exact ⟨_, rfl, .inr ⟨rfl, s.setFb_frame _⟩⟩
  | drw x y n => exact exec_drw_outcome x y n s
  | ldDtVx => exact ⟨_, rfl, .inr ⟨rfl, s.dt_frame _⟩⟩
  | ldStVx => exact ⟨_, rfl, .inr ⟨rfl, s.st_frame _⟩⟩
  | ldVxK x =>
    obtain ⟨t, ht, hdone⟩ := exec_ldVxK_outcome x s
    exact ⟨t, ht, .inr hdone⟩

theorem exec_raises_or_completes (h : exec i s = .next t) : Raises i s t ∨ Completes i s t := by
  obtain ⟨u, hu, hends⟩ := exec_outcome i s
  cases hu.symm.trans h
  exact hends

/-- 10 R45: a fault is in the footprint of an instruction that can raise it. -/
theorem exec_frame (h : exec i s = .next t) : State.frame i.mayChange i.mayWrite s t := by
  rcases exec_raises_or_completes h with ⟨hlatch, f, rfl, -, -⟩ | ⟨-, hframe⟩
  · exact State.frame_mono (s.latchFault_frame f) (by simpa using hlatch) (List.nil_subset _)
  · exact hframe

/-- An instruction keeps every piece outside its list. -/
theorem exec_same {p : Part} (h : exec i s = .next t) (hp : p ∉ i.mayChange) : p.same s t :=
  (exec_frame h).2 p hp

/-! Which instructions list the stack and `I`. -/

theorem stack_mem_mayChange_iff : Part.stack ∈ i.mayChange ↔ (∃ nnn, i = .call nnn) ∨ i = .ret := by
  cases i <;> simp [Instr.mayChange]

theorem index_mem_mayChange_iff :
    Part.index ∈ i.mayChange ↔ (∃ nnn, i = .ldI nnn) ∨ (∃ x, i = .addI x) ∨ ∃ x, i = .ldF x := by
  cases i <;> simp [Instr.mayChange]

/-! Steps. -/

theorem step_total (s : State) : ∃ t, step s = .next t := by
  unfold step
  obtain ⟨u, found⟩ := s.beforeExecute
  cases found with
  | none => exact ⟨u, rfl⟩
  | some i =>
    obtain ⟨t, ht, -⟩ := exec_outcome i u
    exact ⟨t, ht⟩

/-- Seen from the execute part, the fetch address is where `PC` was before the fetch (60 R164). -/
theorem State.pcFetch_skip (s : State) : s.skip.pcFetch = s.pc := by
  simp [State.pcFetch]

/-- An instruction that finds the latch empty and leaves a fault there has raised it. -/
theorem exec_raises_of_latches {f : Fault} (h : exec i s = .next t) (hs : s.fault = none) (ht : t.fault = some f) :
    t = s.latchFault f ∧ f.word = some (encode i) ∧ f.pcFetch = s.pcFetch := by
  rcases exec_raises_or_completes h with ⟨-, g, rfl, hrecord⟩ | ⟨hkept, -⟩
  · cases ht
    exact ⟨rfl, hrecord⟩
  · cases hs.symm.trans (hkept.symm.trans ht)

theorem exec_call_sp {nnn : Addr12} (h : exec (.call nnn) s = .next t) : t.sp = s.sp ∨ t.sp = s.sp + 1 := by
  by_cases hroom : s.sp < s.build.stackCapacity
  · cases (exec_call_of_room nnn hroom).symm.trans h
    exact .inr rfl
  · cases (exec_call_of_full nnn (Nat.not_lt.1 hroom)).symm.trans h
    exact .inl rfl

theorem exec_ret_sp (h : exec .ret s = .next t) : t.sp = s.sp ∨ t.sp + 1 = s.sp := by
  by_cases hempty : s.sp = 0
  · cases (exec_ret_of_empty hempty).symm.trans h
    exact .inl rfl
  · cases (exec_ret_of_occupied (Nat.pos_of_ne_zero hempty)).symm.trans h
    exact .inr (Nat.sub_add_cancel (Nat.pos_of_ne_zero hempty))

theorem exec_sp_cases (h : exec i s = .next t) : t.sp = s.sp ∨ t.sp = s.sp + 1 ∨ t.sp + 1 = s.sp := by
  by_cases hstack : Part.stack ∈ i.mayChange
  · obtain ⟨nnn, rfl⟩ | rfl := stack_mem_mayChange_iff.1 hstack
    · exact (exec_call_sp h).imp_right .inl
    · exact (exec_ret_sp h).imp_right .inr
  · obtain ⟨hsp, -⟩ := exec_same h hstack
    exact .inl hsp

end Sys2Proof.Machine

namespace Sys2Proof

open Laws Machine

/-- Settles O19: the cases of a step that execute nothing write the latch, `PC` or `RUN` as the invariant says, and from
the state that a fetch leaves every instruction keeps it. -/
theorem stepKeepsInvariant : Obligations.StepKeepsInvariant :=
  fun _ _ hinv hstep => step_keeps_inv hinv hstep

/-- Settles O9: a step ends before the execute part, or with an instruction, which always answers a next state. -/
theorem stepAlwaysAnswersNext : Obligations.StepAlwaysAnswersNext :=
  step_total

/-- Settles O10: of the five cases of a step only the fetch fault, the unknown word and an instruction can fill an
empty latch, and an instruction that does so changes nothing else. -/
theorem faultsArePrecise : Obligations.FaultsArePrecise := by
  intro s t f hstep hs ht
  rcases step_cases hstep with ⟨hlatched, -⟩ | ⟨-, r, -, rfl⟩ | ⟨⟨-, hrun⟩, hpc, rfl⟩ | ⟨⟨-, hrun⟩, hpc, -, rfl⟩ |
    ⟨⟨-, hrun⟩, hpc, i, hdecode, hexec⟩
  · exact absurd hs hlatched
  · have hkept : (s.resolveKeyWait r).fault = s.fault := (s.resolveKeyWait_frame r).2 .fault (by decide)
    cases hs.symm.trans (hkept.symm.trans ht)
  · cases ht
    exact ⟨hrun, rfl, .inl ⟨hpc, rfl, rfl⟩⟩
  · cases ht
    exact ⟨hrun, rfl, .inr ⟨hpc, rfl, rfl⟩⟩
  · obtain ⟨rfl, hword, hfetch⟩ := exec_raises_of_latches hexec hs ht
    rw [encode_of_decodeWord hdecode] at hword
    rw [State.pcFetch_skip] at hfetch
    exact ⟨hrun, hfetch, .inr ⟨hpc, hword, rfl⟩⟩

/-- Settles O38: only the footprints of `CALL` and `RET` list the stack, and these two push or pop one slot. -/
theorem stackPointerMovesByOne : Obligations.StackPointerMovesByOne := by
  refine ⟨fun s t hstep => ?byOne, fun i s t hexec hcall hret => exec_same (p := .stack) hexec ?notListed⟩
  case byOne =>
    rcases step_cases hstep with ⟨-, rfl⟩ | ⟨-, r, -, rfl⟩ | ⟨-, -, rfl⟩ | ⟨-, -, -, rfl⟩ | ⟨-, -, i, -, hexec⟩
    · exact .inl rfl
    · obtain ⟨hsp, -⟩ := (s.resolveKeyWait_frame r).2 .stack (by decide)
      exact .inl hsp
    · exact .inl rfl
    · exact .inl rfl
    · exact exec_sp_cases (s := s.skip) hexec
  case notListed =>
    rw [stack_mem_mayChange_iff]
    rintro (⟨nnn, rfl⟩ | rfl)
    · exact hcall nnn rfl
    · exact hret rfl

/-- Settles O46: only the footprints of the three list `I`. -/
theorem indexChangedByThreeOnly : Obligations.IndexChangedByThreeOnly := by
  intro i s t hexec hldI haddI hldF
  refine exec_same (p := .index) hexec ?_
  rw [index_mem_mayChange_iff]
  rintro (⟨nnn, rfl⟩ | ⟨x, rfl⟩ | ⟨x, rfl⟩)
  · exact hldI nnn rfl
  · exact haddI x rfl
  · exact hldF x rfl

/-- Settles O55: an instruction that completes keeps to its footprint, and one that raises a fault changes the latch
alone, which its footprint lists. -/
theorem instructionFootprint : Obligations.InstructionFootprint :=
  fun _ _ _ => exec_frame

end Sys2Proof

/-! SUPPORT. A fetch from a block that was just stored (20 section 8); a draw on the screen under every row policy (43
R137); and instructions with another draw counter (40 R109). After them the statements about single instructions and
events whose rules stand above. -/

namespace Sys2Proof.Machine

variable {s t : State} {i : Instr}

/-! The word that two registers of a stored block make. -/

theorem nibble_succ_toNat {r x : Nibble} (h : r.toNat + 1 ≤ x.toNat) : (r + 1).toNat = r.toNat + 1 := by
  have := nibble_toNat_lt x
  rw [BitVec.toNat_add, show (1 : Nibble).toNat = 1 from rfl]
  omega

theorem State.wordAt_storeAtIndex_regsUpTo (s : State) {x r : Nibble} (h : r.toNat + 1 ≤ x.toNat) :
    (s.storeAtIndex (s.regsUpTo x)).wordAt (s.index.toNat + r.toNat) = wordOfBytes (s.reg r) (s.reg (r + 1)) := by
  have hnext := nibble_succ_toNat h
  rw [State.wordAt, s.byteAt_storeAtIndex_regsUpTo (by omega), Nat.add_assoc, ← hnext,
    s.byteAt_storeAtIndex_regsUpTo (by omega)]

/-! The row policy of a draw none of whose rows passes row 31. -/

/-- The state under another row policy. -/
def State.withPolicy (s : State) (p : RowPolicy) : State := { s with build := { s.build with rowPolicy := p } }

theorem spriteRowPixels_of_onScreen (p : RowPolicy) (b : Byte) {r : Nat} (x0 : Nat) (h : r ≤ 31) :
    spriteRowPixels p b r x0 = rowPixels b r x0 := by
  have hrow : drawnRow p r = some r := if_pos h
  rw [spriteRowPixels, hrow]

theorem State.spritePixels_withPolicy (s : State) (p : RowPolicy) (x0 : Nat) {y0 n : Nat} (h : n = 0 ∨ y0 + n ≤ 32) :
    (s.withPolicy p).spritePixels x0 y0 n = s.spritePixels x0 y0 n := by
  refine List.flatMap_congr fun row hrow => ?_
  have hlast : y0 + row ≤ 31 := by have := List.mem_range.1 hrow; omega
  rw [spriteRowPixels_of_onScreen _ _ _ hlast, spriteRowPixels_of_onScreen _ _ _ hlast]
  rfl

theorem State.not_rowFault_of_onScreen (s : State) {y0 n : Nat} (h : n = 0 ∨ y0 + n ≤ 32) :
    ¬ s.rowFault y0 n = true := by
  rw [s.rowFault_iff]
  omega

/-! The draw counter. -/

/-- The state with another draw counter. -/
def State.withDraws (s : State) (d : Nat) : State := { s with draws := d }

theorem State.withDraws_skipIf (s : State) (d : Nat) (c : Bool) :
    (s.withDraws d).skipIf c = (s.skipIf c).withDraws d := by
  cases c <;> rfl

/-- The range check reads `I` alone. -/
theorem State.withDraws_guardRange (s t : State) (d : Nat) (i : Instr) (len : Nat) :
    (s.withDraws d).guardRange i len (t.withDraws d) = (s.guardRange i len t).withDraws d := by
  have hindex : (s.withDraws d).index = s.index := rfl
  unfold State.guardRange
  rw [hindex]
  cases outOfRange s.index.toNat len <;> rfl

/-- From `s` the instruction answers the same with the counter `d`, but for the counter, which it leaves at `d`. -/
def IgnoresDraws (i : Instr) (s : State) (d : Nat) : Prop :=
  ∃ t, exec i s = .next t ∧ exec i (s.withDraws d) = .next (t.withDraws d)

section
variable {d : Nat}

theorem ignoresDraws_of_guardRange {len : Nat} (h : exec i s = .next (s.guardRange i len t))
    (h' : exec i (s.withDraws d) = .next ((s.withDraws d).guardRange i len (t.withDraws d))) :
    IgnoresDraws i s d :=
  ⟨_, h, by rw [h', State.withDraws_guardRange]⟩

theorem ignoresDraws_of_skipIf (c : Bool) (h : exec i s = .next (s.skipIf c))
    (h' : exec i (s.withDraws d) = .next ((s.withDraws d).skipIf c)) : IgnoresDraws i s d :=
  ⟨_, h, by rw [h', State.withDraws_skipIf]⟩

theorem call_ignoresDraws (nnn : Addr12) : IgnoresDraws (.call nnn) s d := by
  by_cases hroom : s.sp < s.build.stackCapacity
  · exact ⟨_, exec_call_of_room nnn hroom, exec_call_of_room (s := s.withDraws d) nnn hroom⟩
  · have hfull := Nat.not_lt.1 hroom
    exact ⟨_, exec_call_of_full nnn hfull, exec_call_of_full (s := s.withDraws d) nnn hfull⟩

theorem ret_ignoresDraws : IgnoresDraws .ret s d := by
  by_cases hempty : s.sp = 0
  · exact ⟨_, exec_ret_of_empty hempty, exec_ret_of_empty (s := s.withDraws d) hempty⟩
  · have hpos := Nat.pos_of_ne_zero hempty
    exact ⟨_, exec_ret_of_occupied hpos, exec_ret_of_occupied (s := s.withDraws d) hpos⟩

theorem drw_ignoresDraws (x y n : Nibble) : IgnoresDraws (.drw x y n) s d := by
  by_cases hmem : n.toNat = 0 ∨ s.index.toNat + n.toNat - 1 ≤ 4095
  · by_cases hrow : s.rowFault (s.reg y).toNat n.toNat = true
    · exact ⟨_, exec_drw_of_row_fault x hmem hrow, exec_drw_of_row_fault (s := s.withDraws d) x hmem hrow⟩
    · exact ⟨_, exec_drw_of_drawn x hmem hrow, exec_drw_of_drawn (s := s.withDraws d) x hmem hrow⟩
  · have hout : 0 < n.toNat ∧ 4095 < s.index.toNat + n.toNat - 1 := by omega
    exact ⟨_, exec_drw_of_out_of_memory x y hout.1 hout.2,
      exec_drw_of_out_of_memory (s := s.withDraws d) x y hout.1 hout.2⟩

theorem ldVxK_ignoresDraws (x : Nibble) : IgnoresDraws (.ldVxK x) s d := by
  cases hkey : s.key with
  | some k => exact ⟨_, exec_ldVxK_of_key x hkey, exec_ldVxK_of_key (s := s.withDraws d) x hkey⟩
  | none => exact ⟨_, exec_ldVxK_of_no_key x hkey, exec_ldVxK_of_no_key (s := s.withDraws d) x hkey⟩

/-- 40 R109: the source of random bytes belongs to `RND`. -/
theorem ignoresDraws (hrnd : ∀ x nn, i ≠ .rnd x nn) : IgnoresDraws i s d := by
  cases i with
  | rnd x nn => exact absurd rfl (hrnd x nn)
  | cls | ldImm | addImm | ldReg | orReg | andReg | xorReg | addReg | subReg | shr | subnReg | shl | jp | jpV0
  | ldI | addI | ldF | ldVxDt | ldDtVx | ldStVx => exact ⟨_, rfl, rfl⟩
  | seImm | sneImm | seReg | sneReg | skp | sknp => exact ignoresDraws_of_skipIf _ rfl rfl
  | ldB | stRegs | ldRegs => exact ignoresDraws_of_guardRange rfl rfl
  | call nnn => exact call_ignoresDraws nnn
  | ret => exact ret_ignoresDraws
  | drw x y n => exact drw_ignoresDraws x y n
  | ldVxK x => exact ldVxK_ignoresDraws x

end

end Sys2Proof.Machine

namespace Sys2Proof

open Laws Machine

/-- Settles O47: the store leaves at `PC` the word that the two registers make, which the next step decodes. -/
theorem fetchSeesBlockStore : Obligations.FetchSeesBlockStore := by
  intro x r s t i hready hfits hstore hr hpc hbytes
  cases (exec_stRegs_of_fits x hfits).symm.trans hstore
  have hword := s.wordAt_storeAtIndex_regsUpTo hr
  rw [← hpc] at hword
  exact step_of_decodeWord hready (by simp only [State.storeAtIndex_pc]; omega)
    ((congrArg decodeWord hword).trans ((decodeBytes_two _ _ i).1 hbytes))

/-- Settles O51: the policy is read for a row below row 31 only, so the two draws pass the same checks and visit the
same pixels. -/
theorem rowPoliciesAgreeOnScreen : Obligations.RowPoliciesAgreeOnScreen := by
  intro x y n s t p hscreen hexec
  show exec (.drw x y n) (s.withPolicy p) = .next (t.withPolicy p)
  by_cases hmem : n.toNat = 0 ∨ s.index.toNat + n.toNat - 1 ≤ 4095
  · cases (exec_drw_of_drawn x hmem (s.not_rowFault_of_onScreen hscreen)).symm.trans hexec
    rw [← s.spritePixels_withPolicy p _ hscreen]
    exact exec_drw_of_drawn (s := s.withPolicy p) x hmem ((s.withPolicy p).not_rowFault_of_onScreen hscreen)
  · have hout : 0 < n.toNat ∧ 4095 < s.index.toNat + n.toNat - 1 := by omega
    cases (exec_drw_of_out_of_memory x y hout.1 hout.2).symm.trans hexec
    exact exec_drw_of_out_of_memory (s := s.withPolicy p) x y hout.1 hout.2

/-- Settles O57: no instruction but `RND` has the counter among what it reads or writes. -/
theorem onlyRandomUsesDraws : Obligations.OnlyRandomUsesDraws := by
  intro i s t d hexec hrnd
  obtain ⟨u, hu, hud⟩ := ignoresDraws (s := s) (d := d) hrnd
  cases hu.symm.trans hexec
  exact hud

/-- Settles O12: the state `reset()` leaves holds the reset values, and the reset state is what `reset()` makes of
itself. -/
theorem resetValues : Obligations.ResetValues :=
  ⟨State.reset.resetEvent_hasResetValues, fun s => ⟨_, rfl, s.resetEvent_hasResetValues, rfl, rfl⟩⟩

/-- Settles O14: the length is checked first, and a refused event leaves the state as it was. -/
theorem loadTooLargeChangesNothing : Obligations.LoadTooLargeChangesNothing := fun _ _ hlarge =>
  ⟨handle_load_of_too_large hlarge, State.after_load_of_too_large hlarge⟩

/-- Settles O17: the flag alone is cleared, and the pixel is read as one bit. -/
theorem hostDisplaySurface : Obligations.HostDisplaySurface := by
  intro s
  refine ⟨⟨_, rfl, rfl, s.clearDirty_frame⟩, rfl, Iff.rfl, fun i => ⟨rfl, ?bit⟩⟩
  case bit =>
    rw [State.readFb]
    cases s.pixel i.val <;> rfl

/-- Settles O31: 12 bits and 8 bits sum below 65536, so the 16-bit `PC` holds the whole sum. -/
theorem jumpWithOffset : Obligations.JumpWithOffset := fun nnn s =>
  ⟨decodeWord_of_eq_encode (concat_A 0xB nnn), _, rfl, s.offsetTarget_toNat nnn, s.setPc_frame _⟩

/-- Settles O40: the 16-bit sum is the new `I`. -/
theorem addToIndex : Obligations.AddToIndex := fun x s =>
  ⟨decodeWord_of_eq_encode (concat_XI 0xF x 0x1E), _, rfl, indexPlus_toNat s.index (s.reg x), s.setIndex_frame _⟩

/-- Settles O41: the font starts at 0, and each glyph takes 5 bytes. -/
theorem loadGlyphAddress : Obligations.LoadGlyphAddress := fun x s =>
  ⟨decodeWord_of_eq_encode (concat_XI 0xF x 0x29), _, rfl, glyphAddress_toNat (s.reg x), s.setIndex_frame _⟩

/-- Settles O48: the framebuffer becomes the one with every pixel off. -/
theorem clearScreen : Obligations.ClearScreen := fun s =>
  ⟨decodeWord_encode .cls, _, rfl, Bitmap.get_clear, rfl, s.setFb_frame _⟩

/-- Settles O53: the key that is there is written to register X, and without one only `RUN` changes. -/
theorem keyWaitInstruction : Obligations.KeyWaitInstruction := by
  intro x s
  refine ⟨decodeWord_of_eq_encode (concat_XI 0xF x 0x0A), fun k hkey => ?delivered, fun hkey => ?awaited⟩
  case delivered =>
    refine ⟨_, exec_ldVxK_of_key x hkey, ?_, s.setReg_frame x _⟩
    rw [State.reg_setReg_self, keyByte_toNat]
  case awaited => exact ⟨_, exec_ldVxK_of_no_key x hkey, rfl, s.run_frame _⟩

end Sys2Proof
